-- ==== Sys2Proof/Word.lean ====
section
/-!
DEFINITION. Word.lean: the two word widths of the block (00_scope.md R14): a character code, a pattern, an
instruction byte and a data byte have 8 bits; a frame, a command word and a host register have 16.
-/

namespace Sys2Proof

/-- A character code, a segment pattern, an instruction byte or a data byte (R14). -/
abbrev Byte := BitVec 8

/-- A command word, a frame `{instr, data}` or a host register (R14). -/
abbrev Word := BitVec 16

/-- A host word address, `h_addr` (R14, R50). -/
abbrev HostAddr := BitVec 3

end Sys2Proof
end

