-- ==== Sys2Proof/Syntax.lean ====
section
/-!
DEFINITION. Syntax.lean: the host commands, one constructor per row of spec/opcode_table.json (30_encoding.md R83).
The operands have the widths of the command word's fields (R82), so every term can be encoded.
-/

namespace Sys2Proof

/-- A host command (R83). The frame primitive is internal and no command (R100). -/
inductive Instr where
  /-- `INIT`, opcode 1: re-run the bring-up (R140). -/
  | init
  /-- `ON`, opcode 2: normal operation (R145). -/
  | on
  /-- `OFF`, opcode 3: shutdown (R146). -/
  | off
  /-- `BRIGHT #value`, opcode 4 (R150). -/
  | bright (value : Byte)
  /-- `SCAN #limit`, opcode 5 (R160). -/
  | scan (limit : Byte)
  /-- `CLEAR`, opcode 6 (R190). -/
  | clear
  /-- `CHAR #place, #ch`, opcode 7 (R195). -/
  | char (place : BitVec 3) (ch : Byte)
  /-- `STR #len`, opcode 8; the characters are in the string buffer (R200). -/
  | str (len : BitVec 4)
deriving DecidableEq, Repr

end Sys2Proof
end

