-- ==== Sys2Proof/WellFormed.lean ====
section
/-!
DEFINITION. WellFormed.lean: what may be written into a command word. `Instr`'s operands have their fields' widths, so
what can be ill formed is the host script's notation, whose operands are numbers: an operand outside its range "is an
assembly error, not an encoding" (30_encoding.md R88).
-/

namespace Sys2Proof

/-- A command in the host script's notation, its immediates still numbers (R88). -/
inductive AsmCmd where
  | init
  | on
  | off
  | bright (value : Nat)
  | scan (limit : Nat)
  | clear
  | char (place : Nat) (ch : Nat)
  | str (len : Nat)
deriving DecidableEq, Repr

/-- The operand ranges R88 gives in brackets: what fits the field, not what the command accepts. -/
def AsmCmd.wellFormed : AsmCmd → Bool
  | .init => true
  | .on => true
  | .off => true
  | .bright value => decide (value ≤ 255)
  | .scan limit => decide (limit ≤ 255)
  | .clear => true
  | .char place ch => decide (place ≤ 7) && decide (ch ≤ 255)
  | .str len => decide (len ≤ 15)

/-- The "range the field can carry" of R82, on a command's own operands. Their types already say so; whether the
command ACCEPTS the operand is `inRange`'s matter (R130). -/
def Instr.wellFormed : Instr → Bool
  | .init => true
  | .on => true
  | .off => true
  | .bright value => decide (value.toNat ≤ 255)
  | .scan limit => decide (limit.toNat ≤ 255)
  | .clear => true
  | .char place ch => decide (place.toNat ≤ 7) && decide (ch.toNat ≤ 255)
  | .str len => decide (len.toNat ≤ 15)

end Sys2Proof
end

