-- ==== Sys2Proof/Decode.lean ====
section
/-!
DEFINITION. Decode.lean: command words and what they mean as commands (30_encoding.md). `decode` is total on the 65536
words and answers `none` exactly for the illegal opcodes (R85, R86); `encode` writes 0 in the bits a command does not
use (R84). Behind them the host script's assembler (R88).
-/

namespace Sys2Proof

/-- `OP`, bits 15:12 (R81). -/
def opField (w : Word) : BitVec 4 := w.extractLsb' 12 4

/-- `SUB`, bits 11:8 (R81). -/
def subField (w : Word) : BitVec 4 := w.extractLsb' 8 4

/-- `ARG`, bits 7:0 (R81). -/
def argField (w : Word) : Byte := w.extractLsb' 0 8

/-- `CHAR`'s place, bits 10:8 (R82); bit 11 is ignored (R84). -/
def placeField (w : Word) : BitVec 3 := w.extractLsb' 8 3

/-- The decoder of R86. `none` is ILLEGAL. -/
def decode (w : Word) : Option Instr :=
  if opField w = 1#4 then some .init
  else if opField w = 2#4 then some .on
  else if opField w = 3#4 then some .off
  else if opField w = 4#4 then some (.bright (argField w))
  else if opField w = 5#4 then some (.scan (argField w))
  else if opField w = 6#4 then some .clear
  else if opField w = 7#4 then some (.char (placeField w) (argField w))
  else if opField w = 8#4 then some (.str (subField w))
  else none

/-- The host's question: what the decoder reads from an instruction of `nbits` bits whose bits are `w`. Every command
is one 16-bit word (R80); bits above `nbits` are 0, and there is no longer instruction. DESIGN CHOICE, safe (log 12). -/
def decodeTableWord (nbits w : Nat) : Option Instr :=
  if nbits ≤ 16 then decode (BitVec.ofNat 16 (w % 2 ^ nbits)) else none

/-- The command word of a command, unused bits 0 (R87, R88). -/
def encode : Instr → Word
  | .init => 0x1000#16
  | .on => 0x2000#16
  | .off => 0x3000#16
  | .bright value => 0x40#8 ++ value
  | .scan limit => 0x50#8 ++ limit
  | .clear => 0x6000#16
  | .char place ch => 0x7#4 ++ 0#1 ++ place ++ ch
  | .str len => 0x8#4 ++ len ++ 0x00#8

/-- The bits of the command word that the command reads (R83, R84): the opcode and the operand fields. -/
def usedBits : Instr → Word
  | .init => 0xF000#16
  | .on => 0xF000#16
  | .off => 0xF000#16
  | .bright _ => 0xF0FF#16
  | .scan _ => 0xF0FF#16
  | .clear => 0xF000#16
  | .char _ _ => 0xF7FF#16
  | .str _ => 0xFF00#16

/-- A command of the notation as a command; `none` is the assembly error (R88). -/
def assemble (a : AsmCmd) : Option Instr :=
  if a.wellFormed then
    match a with
    | .init => some .init
    | .on => some .on
    | .off => some .off
    | .bright value => some (.bright (BitVec.ofNat 8 value))
    | .scan limit => some (.scan (BitVec.ofNat 8 limit))
    | .clear => some .clear
    | .char place ch => some (.char (BitVec.ofNat 3 place) (BitVec.ofNat 8 ch))
    | .str len => some (.str (BitVec.ofNat 4 len))
  else none

/-- The number R88's table gives for each command of the notation. -/
def asmNumber : AsmCmd → Nat
  | .init => 0x1000
  | .on => 0x2000
  | .off => 0x3000
  | .bright value => 0x4000 + value
  | .scan limit => 0x5000 + limit
  | .clear => 0x6000
  | .char place ch => 0x7000 + place * 256 + ch
  | .str len => 0x8000 + len * 256

/-- The word a command of the notation assembles to (R88). -/
def asmWord (a : AsmCmd) : Option Word :=
  if a.wellFormed then some (BitVec.ofNat 16 (asmNumber a)) else none

end Sys2Proof
end

