-- ==== Sys2Proof/Config.lean ====
section
/-!
DEFINITION. Config.lean: what the spec leaves to the platform or the build (00_scope.md section 3,
93_implementation_defined.md part 1). Each open parameter is a constant WITHOUT a body, so a theorem about the block
holds for every value of it. DESIGN CHOICE of form, safe (logs 7, 8, 9).
-/

namespace Sys2Proof

/-- `HOST_TRUNCATION` (92_eei_decisions.md D19): which eight characters of a longer host string the HOST keeps. -/
inductive HostTruncation where
  | keepFirst8
  | keepLast8
deriving DecidableEq, Repr, Inhabited

namespace Config

/-- OPEN (R11, U1): `SPI_DIV` less one. -/
opaque spiDivLess1 : Nat

/-- `SPI_DIV >= 1`, the `clk` cycles of one micro-step (R11). -/
def spiDiv : Nat := spiDivLess1 + 1

/-- OPEN (R12, U2): `SETTLE_CYCLES >= 0`, the `clk` cycles of the settle delay. -/
opaque settleCycles : Nat

/-- OPEN (R8, U4): `SEG_ROM_SIZE` less its least value 46. -/
opaque segRomSizeAbove46 : Fin 166

/-- `SEG_ROM_SIZE`, the number of ROM entries, with `46 <= SEG_ROM_SIZE <= 211` (R8). The spec's default is 51. -/
def segRomSize : Nat := 46 + segRomSizeAbove46.val

/-- OPEN (R176, U3): whether the character of ROM entry `i` has a glyph. -/
opaque hasGlyph : Nat → Bool

/-- OPEN (R9, U3): the glyph of ROM entry `i`, where there is one. -/
opaque glyph : Nat → Byte

/-- OPEN, a parameter of the host and not of the block (R203, U5). -/
opaque hostTruncation : HostTruncation

end Config

end Sys2Proof
end

