-- ==== Sys2Proof/Machine/SegRom.lean ====
section
/-!
DEFINITION. Machine/SegRom.lean: the 7-segment ROM and the lookup (42_segment_rom.md). The lookup is written over any
ROM of any size (`lookupIn`); the block's own is that at the Config's ROM (`lookup`).
-/

namespace Sys2Proof.Machine

/-- `BLANK_PATTERN = 0x00` (R10). -/
def blankPattern : Byte := 0x00#8

/-- `SEG_OFFSET = 45` (R7). -/
def segOffset : Int := 45

/-- `CASE_OFFSET = 32` (R7). -/
def caseOffset : Byte := 32#8

/-- `SEG_ROM`: the glyph of the entry's character, or `BLANK_PATTERN` where it has none (R9, R170, R176). -/
def segRom (i : Nat) : Byte :=
  if Config.hasGlyph i then Config.glyph i else blankPattern

/-- Case folding, exactly 0x61 to 0x7A (R172). -/
def fold (c : Byte) : Byte :=
  if 0x61 ≤ c.toNat ∧ c.toNat ≤ 0x7A then c - caseOffset else c

/-- The table index, a signed integer from -45 to 210 (R173). -/
def romIndex (c : Byte) : Int := (fold c).toNat - segOffset

/-- The lookup over a ROM `rom` of `size` entries: blank outside the table, where the ROM is not read (R174, R175). -/
def lookupIn (size : Nat) (rom : Nat → Byte) (c : Byte) : Byte :=
  if romIndex c < 0 then blankPattern
  else if romIndex c ≥ size then blankPattern
  else rom (romIndex c).toNat

/-- The block's lookup (R175). -/
def lookup (c : Byte) : Byte := lookupIn Config.segRomSize segRom c

end Sys2Proof.Machine
end

