-- ==== Sys2Proof/Machine/Frames.lean ====
section
/-!
DEFINITION. Machine/Frames.lean: frames as words, the IC's register addresses (40_spi_bitbang.md R104), and the frame
list of each command (41_control_commands.md R132).
-/

namespace Sys2Proof.Machine

/-- A frame as the 16-bit word sent, `{instr, data}` in wire order (R100, R15). -/
def frame (instr data : Byte) : Word := instr ++ data

/-- The instruction byte of a frame, `w[15:8]` (R107). -/
def instrByte (w : Word) : Byte := w.extractLsb' 8 8

/-- The data byte of a frame, `w[7:0]` (R107). -/
def dataByte (w : Word) : Byte := w.extractLsb' 0 8

/-- `REG_DIGIT(p) = p + 1` for a place 0 to 7 (R104). -/
def regDigit (place : Nat) : Byte := BitVec.ofNat 8 (place + 1)

/-- `REG_INTENSITY` (R104). -/
def regIntensity : Byte := 0x0A#8

/-- `REG_SCANLIMIT` (R104). -/
def regScanLimit : Byte := 0x0B#8

/-- `REG_SHUTDOWN` (R104). -/
def regShutdown : Byte := 0x0C#8

/-- `REG_DISPTEST` (R104). -/
def regDispTest : Byte := 0x0F#8

/-- The loop of `string_frames` with `j` characters still to send, counting down (R201). Callers pass eight characters
and `n ≤ 8`, so the default of `getD` is never read. -/
def stringFramesFrom (chars : List Byte) (n : Nat) : Nat → List Word
  | 0 => []
  | j + 1 => frame (regDigit (8 - n + j)) (lookup (chars.getD j 0)) :: stringFramesFrom chars n j

/-- `string_frames(S, n)` for `n ≤ 8`: character `j` to place `8 - n + j`, the last character first (R201). -/
def stringFrames (chars : List Byte) (n : Nat) : List Word := stringFramesFrom chars n n

/-- `CLEAR_FRAMES`: one string write of eight spaces (R190). -/
def clearFrames : List Word := stringFrames (List.replicate 8 0x20#8) 8

/-- `INIT_FRAMES`: display test off, scan limit 7, intensity 15, normal operation, clear (R13, R141). -/
def initFrames : List Word :=
  [frame regDispTest 0x00#8, frame regScanLimit 0x07#8, frame regIntensity 0x0F#8, frame regShutdown 0x01#8]
    ++ clearFrames

/-- `frames(ON)` (R145). -/
def onFrames : List Word := [frame regShutdown 0x01#8]

/-- `frames(OFF)` (R146). -/
def offFrames : List Word := [frame regShutdown 0x00#8]

/-- `frames(BRIGHT(value))` (R150). -/
def brightFrames (value : Byte) : List Word := [frame regIntensity value]

/-- `frames(SCAN(limit))` (R160). -/
def scanFrames (limit : Byte) : List Word := [frame regScanLimit limit]

/-- `frames(CHAR(place, ch))` (R195). -/
def charFrames (place : BitVec 3) (ch : Byte) : List Word := [frame (regDigit place.toNat) (lookup ch)]

end Sys2Proof.Machine
end

