-- ==== Sys2Proof/Machine/State.lean ====
section
/-!
DEFINITION. Machine/State.lean: the block's state (10_state.md R22: the three line flip-flops, the host-visible
registers, the sequencer state; the ROM is constant and stands in Config), and the script of the host agent, which is
the model's own (log 2). Reset is R35, field by field.
-/

namespace Sys2Proof.Machine

/-- The three line flip-flops `line.CS`, `line.CLK`, `line.DIN` (R21). -/
structure Lines where
  cs  : Bool
  clk : Bool
  din : Bool
deriving DecidableEq, Repr

/-- The `STATUS` fields that hold state (R26). `LINE_*` mirror the lines and reserved bits hold nothing: DEDUCED, safe
(log 6). -/
structure Status where
  busy     : Bool
  initDone : Bool
  ovr      : Bool
  result   : BitVec 4
deriving DecidableEq, Repr

/-- The string buffer, four read-write registers (R27). -/
structure StrBuf where
  str01 : Word
  str23 : Word
  str45 : Word
  str67 : Word
deriving DecidableEq, Repr

/-- The `SHADOW` fields (R29): what was last SENT, never what the IC holds (R34). -/
structure Shadow where
  intensity : BitVec 4
  scanLimit : BitVec 3
  normalOp  : Bool
  test      : Bool
  known     : Bool
deriving DecidableEq, Repr

/-- `seq.mode` (R30). -/
inductive SeqMode where
  | idle
  | run
  | settle
deriving DecidableEq, Repr

/-- The sequencer's state (R30). -/
structure Seq where
  mode   : SeqMode
  fq     : List Word   -- the frames of the current command, in transmission order
  fi     : Nat         -- index in fq of the frame being sent
  ms     : Fin 50      -- the next micro-step of that frame
  div    : Nat         -- cycles spent in the current slot
  settle : Nat         -- cycles spent in the settle delay
  init   : Bool        -- the current command is a bring-up
deriving DecidableEq, Repr

/-- The levels of the input ports in one cycle (R20). -/
structure PortIn where
  rst    : Bool
  hWe    : Bool
  hAddr  : HostAddr
  hWdata : Word
deriving DecidableEq, Repr

/-- One operation of the host's script (R88, R89): one cycle of given levels, or a polling loop on `STATUS`. -/
inductive HostOp where
  /-- Drive these levels for one cycle (`WR`, `RD`, reset, or nothing). -/
  | cycle (p : PortIn)
  /-- `WAITIDLE`: read `STATUS` until bit 0 is 0. -/
  | waitIdle
  /-- `WAITINIT`: read `STATUS` until bit 0 is 0 and bit 1 is 1. -/
  | waitInit
deriving DecidableEq, Repr

/-- The machine: the block, and the host's remaining script. There is no memory to hold (R51): DEDUCED, safe (log 10). -/
structure State where
  line      : Lines
  status    : Status
  str       : StrBuf
  lastFrame : Word
  shadow    : Shadow
  seq       : Seq
  host      : List HostOp
deriving DecidableEq, Repr

/-- Why the machine stops. The block itself has no trap (R227) and every outcome is defined (R19). -/
inductive Fault where
  /-- Raised by the sequencer's step in `RUN` when `seq.fi` indexes no frame of `seq.fq`, which R30 rules out and which
  no run reaches. DESIGN CHOICE (log 11). SAFE: the model stops where the spec's index has no meaning. -/
  | frameIndexOutOfRange
deriving DecidableEq, Repr

/-- Why an instruction has no meaning. No instruction of this model is refused. -/
inductive Refusal where
  /-- Reserved for an arm of `exec` without a meaning; none is left. SAFE: a refusal proves nothing. -/
  | notModelled (mnemonic : String)
deriving DecidableEq, Repr

/-- The machine right after reset (R35, R250): the bring-up is loaded and `CS` = 1. The host's script, the model's own
field, is empty: DESIGN CHOICE, unsafe (log 2). -/
def State.reset : State where
  line := { cs := true, clk := false, din := false }
  status := { busy := true, initDone := false, ovr := false, result := 0#4 }
  str := { str01 := 0x0000#16, str23 := 0x0000#16, str45 := 0x0000#16, str67 := 0x0000#16 }
  lastFrame := 0x0000#16
  shadow := { intensity := 0#4, scanLimit := 0#3, normalOp := false, test := false, known := false }
  seq := { mode := .run, fq := initFrames, fi := 0, ms := 0, div := 0, settle := 0, init := true }
  host := []

end Sys2Proof.Machine
end

