-- ==== Sys2Proof/Machine/Flags.lean ====
section
/-!
DEFINITION. Machine/Flags.lean: the `STATUS` and `SHADOW` words a host reads (10_state.md R26, R29), the outcome codes
(60_exceptions.md R220), the write-one-to-clear of `OVR` (20_memory.md R57) and the update of `SHADOW` by a closing
frame (40_spi_bitbang.md R107).
-/

namespace Sys2Proof.Machine

/-- `RESULT` 0, `OK` (R220). -/
def resultOk : BitVec 4 := 0#4

/-- `RESULT` 1, `ERR_RANGE` (R220). -/
def errRange : BitVec 4 := 1#4

/-- `RESULT` 2, `ERR_OPCODE` (R220). -/
def errOpcode : BitVec 4 := 2#4

/-- The `STATUS` word: reserved 15:11, `LINE_DIN`, `LINE_CLK`, `LINE_CS`, `RESULT` 7:4, reserved 3, `OVR`,
`INIT_DONE`, `BUSY` (R26). -/
def statusWord (l : Lines) (st : Status) : Word :=
  0#5 ++ BitVec.ofBool l.din ++ BitVec.ofBool l.clk ++ BitVec.ofBool l.cs ++ st.result ++ 0#1
    ++ BitVec.ofBool st.ovr ++ BitVec.ofBool st.initDone ++ BitVec.ofBool st.busy

/-- The `SHADOW` word: `KNOWN`, reserved 14:9, `TEST`, `NORMAL_OP`, `SCANLIMIT` 6:4, `INTENSITY` 3:0 (R29). -/
def shadowWord (sh : Shadow) : Word :=
  BitVec.ofBool sh.known ++ 0#6 ++ BitVec.ofBool sh.test ++ BitVec.ofBool sh.normalOp ++ sh.scanLimit ++ sh.intensity

/-- Writing `v` to `STATUS`: bit 2 = 1 clears `OVR`, every other bit is ignored (R57). -/
def statusAfterWrite (v : Word) (st : Status) : Status :=
  if v.getLsbD 2 then { st with ovr := false } else st

/-- `SHADOW` at the closing edge of frame `w`; `fourth` says it is the fourth frame of a bring-up (R29, R107). -/
def shadowAfter (fourth : Bool) (w : Word) (sh : Shadow) : Shadow where
  intensity := if instrByte w = regIntensity then (dataByte w).extractLsb' 0 4 else sh.intensity
  scanLimit := if instrByte w = regScanLimit then (dataByte w).extractLsb' 0 3 else sh.scanLimit
  normalOp := if instrByte w = regShutdown then (dataByte w).getLsbD 0 else sh.normalOp
  test := if instrByte w = regDispTest then (dataByte w).getLsbD 0 else sh.test
  known := if fourth then true else sh.known

end Sys2Proof.Machine
end

