-- ==== Sys2Proof/Machine/Operands.lean ====
section
/-!
DEFINITION. Machine/Operands.lean: where commands and host accesses take their operands from: the register a host
address names (10_state.md R23), the characters of the string buffer (R27), and the range checks (R130).
-/

namespace Sys2Proof.Machine

/-- The eight host-visible registers (R23). -/
inductive HostReg where
  | cmd
  | status
  | str01
  | str23
  | str45
  | str67
  | lastFrame
  | shadow
deriving DecidableEq, Repr

/-- The register at a word address; every address names one (R23, R50). -/
def regAt (a : HostAddr) : HostReg :=
  if a = 0#3 then .cmd
  else if a = 1#3 then .status
  else if a = 2#3 then .str01
  else if a = 3#3 then .str23
  else if a = 4#3 then .str45
  else if a = 5#3 then .str67
  else if a = 6#3 then .lastFrame
  else .shadow

/-- The word address of a register (R23). -/
def addrOf : HostReg → HostAddr
  | .cmd => 0#3
  | .status => 1#3
  | .str01 => 2#3
  | .str23 => 3#3
  | .str45 => 4#3
  | .str67 => 5#3
  | .lastFrame => 6#3
  | .shadow => 7#3

/-- `S[2k]`, the low byte of a string-buffer register (R27, R55). -/
def lowChar (w : Word) : Byte := w.extractLsb' 0 8

/-- `S[2k+1]`, the high byte of a string-buffer register (R27, R55). -/
def highChar (w : Word) : Byte := w.extractLsb' 8 8

/-- `S[0..7]`, the characters of the string buffer (R27). -/
def bufferChars (b : StrBuf) : List Byte :=
  [lowChar b.str01, highChar b.str01, lowChar b.str23, highChar b.str23,
   lowChar b.str45, highChar b.str45, lowChar b.str67, highChar b.str67]

/-- `BRIGHT`'s range check, `value <= 15` (R150). -/
def brightInRange (value : Byte) : Bool := decide (value.toNat ≤ 15)

/-- `SCAN`'s range check, `limit <= 7` (R160). -/
def scanInRange (limit : Byte) : Bool := decide (limit.toNat ≤ 7)

/-- `STR`'s range check, `len <= 8` (R200). -/
def strInRange (len : BitVec 4) : Bool := decide (len.toNat ≤ 8)

end Sys2Proof.Machine
end

