-- ==== Sys2Proof/Machine/Ops.lean ====
section
/-!
DEFINITION. Machine/Ops.lean: the named operations the meanings share: dropping, rejecting and accepting a command
(41_control_commands.md R130, R131; 60_exceptions.md R221, R223), and reading and writing the other host registers
(20_memory.md R53, R57, R59). The block has no exception to take and none to return from (R227): a rejection is an
ordinary next state, and `dropWrite` and `rejectCommand` are the whole of it.
-/

namespace Sys2Proof.Machine

/-- A write dropped because `BUSY` = 1: it changes nothing except `OVR <- 1` (R223). -/
def dropWrite (s : State) : State :=
  { s with status := { s.status with ovr := true } }

/-- `reject(code)`: `RESULT <- code` and nothing else (R221). -/
def rejectCommand (code : BitVec 4) (s : State) : State :=
  { s with status := { s.status with result := code } }

/-- `accept(d)` for a command with frame list `fs`; `bringUp` says that it is `INIT` (R131). -/
def acceptCommand (bringUp : Bool) (fs : List Word) (s : State) : State :=
  let st := { s.status with result := resultOk, initDone := if bringUp then false else s.status.initDone }
  if fs.isEmpty then
    { s with status := st, seq := { s.seq with init := bringUp } }
  else
    { s with
      status := { st with busy := true }
      seq := { s.seq with mode := .run, fq := fs, fi := 0, ms := 0, div := 0, init := bringUp } }

/-- A decoded command written to `CMD`: dropped, rejected for its range, or accepted (R130, R224). -/
def issueCommand (ok bringUp : Bool) (fs : List Word) (s : State) : State :=
  if s.status.busy then dropWrite s
  else if ok then acceptCommand bringUp fs s
  else rejectCommand errRange s

/-- A command word with an illegal opcode written to `CMD`: dropped or `ERR_OPCODE` (R130, R222). -/
def issueIllegal (s : State) : State :=
  if s.status.busy then dropWrite s else rejectCommand errOpcode s

/-- The value the register holds: `MemRead(a, 2)` (R53). `CMD` reads 0x0000 (R24). -/
def readReg (r : HostReg) (s : State) : Word :=
  match r with
  | .cmd => 0x0000#16
  | .status => statusWord s.line s.status
  | .str01 => s.str.str01
  | .str23 => s.str.str23
  | .str45 => s.str.str45
  | .str67 => s.str.str67
  | .lastFrame => s.lastFrame
  | .shadow => shadowWord s.shadow

/-- A write of the `STATUS` register, taken whatever `BUSY` is (R57). -/
def writeStatus (v : Word) (s : State) : State :=
  { s with status := statusAfterWrite v s.status }

/-- A write of the string buffer: taken with `BUSY` = 0, dropped with `BUSY` = 1 (R59). `b` is the buffer with the
written register at its new value. -/
def writeBuffer (b : StrBuf) (s : State) : State :=
  if s.status.busy then dropWrite s else { s with str := b }

end Sys2Proof.Machine
end

