-- ==== Sys2Proof/Machine/Control.lean ====
section
/-!
DEFINITION. Machine/Control.lean: the control commands `INIT`, `ON`, `OFF`, `BRIGHT`, `SCAN` written to `CMD`
(41_control_commands.md sections 2 to 5). Each answers the state after the edge of the write; the frames go out at the
edges that follow (Machine/Sequencer.lean).
-/

namespace Sys2Proof.Machine

/-- `INIT`: no range check, the bring-up list, and `INIT_DONE <- 0` (R140). -/
def execInit (s : State) : Host.Outcome State Fault Refusal :=
  .next (issueCommand true true initFrames s)

/-- `ON`: no range check, one shutdown frame with 1 (R145). -/
def execOn (s : State) : Host.Outcome State Fault Refusal :=
  .next (issueCommand true false onFrames s)

/-- `OFF`: no range check, one shutdown frame with 0 (R146). -/
def execOff (s : State) : Host.Outcome State Fault Refusal :=
  .next (issueCommand true false offFrames s)

/-- `BRIGHT(value)`: `value <= 15`, one intensity frame (R150). -/
def execBright (value : Byte) (s : State) : Host.Outcome State Fault Refusal :=
  .next (issueCommand (brightInRange value) false (brightFrames value) s)

/-- `SCAN(limit)`: `limit <= 7`, one scan-limit frame (R160). -/
def execScan (limit : Byte) (s : State) : Host.Outcome State Fault Refusal :=
  .next (issueCommand (scanInRange limit) false (scanFrames limit) s)

end Sys2Proof.Machine
end

