-- ==== Sys2Proof/Machine/Display.lean ====
section
/-!
DEFINITION. Machine/Display.lean: the display commands `CLEAR`, `CHAR`, `STR` written to `CMD`
(43_display_commands.md).
-/

namespace Sys2Proof.Machine

/-- `CLEAR`: no range check, eight blank digit frames (R190). -/
def execClear (s : State) : Host.Outcome State Fault Refusal :=
  .next (issueCommand true false clearFrames s)

/-- `CHAR(place, ch)`: no range check, one digit frame (R195). -/
def execChar (place : BitVec 3) (ch : Byte) (s : State) : Host.Outcome State Fault Refusal :=
  .next (issueCommand true false (charFrames place ch) s)

/-- `STR(len)`: `len <= 8`; the string buffer is read now, into the frame list (R200, R67). -/
def execStr (len : BitVec 4) (s : State) : Host.Outcome State Fault Refusal :=
  .next (issueCommand (strInRange len) false (stringFrames (bufferChars s.str) len.toNat) s)

end Sys2Proof.Machine
end

