-- ==== Sys2Proof/Machine/Dispatch.lean ====
section
/-!
DEFINITION. Machine/Dispatch.lean: one arm a command, each one direct call of its meaning.
-/

namespace Sys2Proof.Machine

/-- What a decoded command written to `CMD` does at the edge of the write (41_control_commands.md R130). -/
def exec (i : Instr) (s : State) : Host.Outcome State Fault Refusal :=
  match i with
  | .init => Sys2Proof.Machine.execInit s
  | .on => Sys2Proof.Machine.execOn s
  | .off => Sys2Proof.Machine.execOff s
  | .bright value => Sys2Proof.Machine.execBright value s
  | .scan limit => Sys2Proof.Machine.execScan limit s
  | .clear => Sys2Proof.Machine.execClear s
  | .char place ch => Sys2Proof.Machine.execChar place ch s
  | .str len => Sys2Proof.Machine.execStr len s

end Sys2Proof.Machine
end

