-- ==== Sys2Proof/Machine/Sequencer.lean ====
section
/-!
DEFINITION. Machine/Sequencer.lean: the SPI master bitbang (40_spi_bitbang.md) and the sequencer's own step
(41_control_commands.md R133, R134).
-/

namespace Sys2Proof.Machine

/-- The `j`-th data bit sent of frame `w` is `w[15 - j]` (R102). -/
def sentBit (w : Word) (j : Nat) : Bool := w.getLsbD (15 - j)

/-- What micro-step `ms` of frame `w` does to the lines (R103). -/
def microstepLines (w : Word) (ms : Nat) (l : Lines) : Lines :=
  if ms = 0 then { l with cs := false }
  else if ms = 49 then { l with cs := true }
  else if (ms - 1) % 3 = 0 then { l with din := sentBit w ((ms - 1) / 3) }
  else if (ms - 1) % 3 = 1 then { l with clk := true }
  else { l with clk := false }

/-- `close_frame(w)`, at the edge of the closing `CS` rise (R107). -/
def closeFrame (w : Word) (s : State) : State :=
  { s with lastFrame := w, shadow := shadowAfter (s.seq.init && decide (s.seq.fi = 3)) w s.shadow }

/-- Micro-step `ms` of frame `w` (R103). -/
def microstep (w : Word) (ms : Nat) (s : State) : State :=
  let s' := { s with line := microstepLines w ms s.line }
  if ms = 49 then closeFrame w s' else s'

/-- `finish_init()` (R134). -/
def finishInit (s : State) : State :=
  { s with
    status := { s.status with busy := false, initDone := true }
    seq := { s.seq with mode := .idle, init := false } }

/-- `end_of_list()`, at the edge of the last frame's `CS` rise (R134). What it does not name keeps its value: DEDUCED,
unsafe (log 15). -/
def endOfList (s : State) : State :=
  if s.seq.init then
    if Config.settleCycles > 0 then { s with seq := { s.seq with mode := .settle, settle := 0 } }
    else finishInit s
  else { s with status := { s.status with busy := false }, seq := { s.seq with mode := .idle } }

/-- After a micro-step: the next one of the frame, the next frame, or the end of the list (R133). -/
def advance (s : State) : State :=
  if h : s.seq.ms.val < 49 then { s with seq := { s.seq with ms := ⟨s.seq.ms.val + 1, by omega⟩ } }
  else if s.seq.fi < s.seq.fq.length - 1 then { s with seq := { s.seq with ms := 0, fi := s.seq.fi + 1 } }
  else endOfList { s with seq := { s.seq with ms := 0 } }

/-- The edge that ends a slot: the micro-step happens, then the position advances (R133). -/
def slotEnd (w : Word) (s : State) : State :=
  advance (microstep w s.seq.ms.val { s with seq := { s.seq with div := 0 } })

/-- An edge in `RUN` (R133). -/
def runEdge (s : State) : Host.Outcome State Fault Refusal :=
  if s.seq.div < Config.spiDiv - 1 then .next { s with seq := { s.seq with div := s.seq.div + 1 } }
  else
    match s.seq.fq[s.seq.fi]? with
    | some w => .next (slotEnd w s)
    | none => .fault .frameIndexOutOfRange

/-- An edge in `SETTLE` (R133). -/
def settleEdge (s : State) : State :=
  if s.seq.settle < Config.settleCycles - 1 then { s with seq := { s.seq with settle := s.seq.settle + 1 } }
  else finishInit s

/-- The sequencer's part of an edge. `mode` is `seq.mode` at the START of the cycle: a command accepted at this edge
begins its first slot at the next. DEDUCED, unsafe (log 5), from R133's own count: micro-step `n` is at
`E0 + (n + 1) * SPI_DIV`. -/
def seqEdge (mode : SeqMode) (s : State) : Host.Outcome State Fault Refusal :=
  match mode with
  | .idle => .next s
  | .run => runEdge s
  | .settle => .next (settleEdge s)

end Sys2Proof.Machine
end

