-- ==== Sys2Proof/Machine/HostPort.lean ====
section
/-!
DEFINITION. Machine/HostPort.lean: the host port (20_memory.md section 2): what a write does by its address, the output
ports, and the host agent that drives the input ports from its script (log 2).
-/

namespace Sys2Proof.Machine

/-- A write of command word `w` to `CMD` (R130). -/
def writeCmd (w : Word) (s : State) : Host.Outcome State Fault Refusal :=
  match decode w with
  | some i => exec i s
  | none => .next (issueIllegal s)

/-- `MemWrite(a, 2, v)`: the host write at an edge with `rst` = 0 (R52). `LASTFRAME` and `SHADOW` ignore it (R58). -/
def writeReg (r : HostReg) (v : Word) (s : State) : Host.Outcome State Fault Refusal :=
  match r with
  | .cmd => writeCmd v s
  | .status => .next (writeStatus v s)
  | .str01 => .next (writeBuffer { s.str with str01 := v } s)
  | .str23 => .next (writeBuffer { s.str with str23 := v } s)
  | .str45 => .next (writeBuffer { s.str with str45 := v } s)
  | .str67 => .next (writeBuffer { s.str with str67 := v } s)
  | .lastFrame => .next s
  | .shadow => .next s

/-- The input ports of a cycle in which the host does nothing. DESIGN CHOICE, safe (log 2): the levels of `h_addr` and
`h_wdata` are open there, and no write looks at them. -/
def quietPort : PortIn := { rst := false, hWe := false, hAddr := 0#3, hWdata := 0x0000#16 }

/-- The input ports of a cycle that reads the register `r` (R53). -/
def readPort (r : HostReg) : PortIn := { rst := false, hWe := false, hAddr := addrOf r, hWdata := 0x0000#16 }

/-- The input ports of a cycle that writes `v` to the register `r` (R52). -/
def writePort (r : HostReg) (v : Word) : PortIn := { rst := false, hWe := true, hAddr := addrOf r, hWdata := v }

/-- The levels the host drives in this cycle. -/
def hostDrive (s : State) : PortIn :=
  match s.host with
  | [] => quietPort
  | .cycle p :: _ => p
  | .waitIdle :: _ => readPort .status
  | .waitInit :: _ => readPort .status

/-- The host's script after this cycle: a polling loop repeats until the value read lets it go on (R89).
DESIGN CHOICE, unsafe (log 3): one operation, or one read of a loop, takes one cycle. -/
def hostRest (s : State) : List HostOp :=
  match s.host with
  | [] => []
  | .cycle _ :: rest => rest
  | .waitIdle :: rest =>
    if (readReg .status s).getLsbD 0 then .waitIdle :: rest else rest
  | .waitInit :: rest =>
    if (readReg .status s).getLsbD 0 || !(readReg .status s).getLsbD 1 then .waitInit :: rest else rest

/-- The `h_rdata` output port: the register at `h_addr` as it stands at the start of the cycle (R53). DEDUCED, unsafe
(log 13): so in the first cycle with `rst` = 1 it still shows the value from before the reset edge. -/
def hRdata (s : State) : Word := readReg (regAt (hostDrive s).hAddr) s

/-- The `busy` output port (R20). -/
def busyPort (s : State) : Bool := s.status.busy

/-- The host's write at an edge with `rst` = 0, if there is one (R52). -/
def hostEdge (p : PortIn) (s : State) : Host.Outcome State Fault Refusal :=
  if p.hWe then writeReg (regAt p.hAddr) p.hWdata s else .next s

/-- An edge with `rst` = 1: every piece of the block's state takes its reset value, and the write of the cycle is lost
(R250). DESIGN CHOICE, unsafe (log 2): the host is another agent, and `rst` does not stop its script. -/
def resetEdge (rest : List HostOp) : State := { State.reset with host := rest }

/-- One rising edge of `clk` (R229): reset wins; else the host's write, judged by `BUSY` at the start of the cycle, and
then the sequencer's step, by `seq.mode` at the start of the cycle (R130, R133). -/
def clockEdge (p : PortIn) (rest : List HostOp) (s : State) : Host.Outcome State Fault Refusal :=
  if p.rst then .next (resetEdge rest)
  else
    match hostEdge p { s with host := rest } with
    | .next s' => seqEdge s.seq.mode s'
    | .fault r => .fault r
    | .refused r => .refused r

end Sys2Proof.Machine
end

