-- ==== Sys2Proof/Machine/Step.lean ====
section
/-!
DEFINITION. Machine/Step.lean: one step of the machine is one rising edge of `clk` (10_state.md R20). DEDUCED, safe
(log 1).
-/

namespace Sys2Proof.Machine

/-- One rising edge of `clk`, with the input ports as the host drives them in this cycle. -/
def step (s : State) : Host.Outcome State Fault Refusal := clockEdge (hostDrive s) (hostRest s) s

/-- `s` with the command word `w` as the host's write of this very cycle, and with the sequencer idle, since a busy
block drops every command (R130). The rest of the script stays behind it. DESIGN CHOICE, safe (log 4). -/
def State.withFetchWord (s : State) (nbits w : Nat) : State :=
  { s with
    host := .cycle (writePort .cmd (BitVec.ofNat 16 (w % 2 ^ nbits))) :: s.host
    status := { s.status with busy := false }
    seq := { s.seq with mode := .idle } }

end Sys2Proof.Machine
end

