-- ==== Sys2Proof/Machine/CommandTable.lean ====
section
/-!
DEFINITION. Machine/CommandTable.lean: the spec's tables of all commands as functions of the command: `in_range(d)`
(41_control_commands.md R130) and `frames(d)` (R132). The meanings do not call them; the claims do, so that a claim
over all commands holds the meanings against the tables.
-/

namespace Sys2Proof.Machine

/-- `in_range(d)` (R130). -/
def inRange : Instr → Bool
  | .init => true
  | .on => true
  | .off => true
  | .bright value => decide (value.toNat ≤ 15)
  | .scan limit => decide (limit.toNat ≤ 7)
  | .clear => true
  | .char _ _ => true
  | .str len => decide (len.toNat ≤ 8)

/-- `d == INIT` (R131). -/
def isBringUp : Instr → Bool
  | .init => true
  | .on => false
  | .off => false
  | .bright _ => false
  | .scan _ => false
  | .clear => false
  | .char _ _ => false
  | .str _ => false

/-- `frames(d)` for an accepted command, the string buffer as it is now (R132, R67). -/
def framesOf (s : State) : Instr → List Word
  | .init => initFrames
  | .on => onFrames
  | .off => offFrames
  | .bright value => brightFrames value
  | .scan limit => scanFrames limit
  | .clear => clearFrames
  | .char place ch => charFrames place ch
  | .str len => stringFrames (bufferChars s.str) len.toNat

end Sys2Proof.Machine
end

