-- ==== Sys2Proof/Machine/Trace.lean ====
section
/-!
DEFINITION. Machine/Trace.lean: what can be observed of a run (00_scope.md R18): the levels of the three lines after each
micro-step (40_spi_bitbang.md R108) and the frames a receiver reads from them (R110). These are functions of a run and
no state of the block (10_state.md R22): DEDUCED, unsafe where a receiver samples elsewhere (log 14). What they say of a
run across a reset in the middle of a frame (70_reset_and_hazards.md R252) is the model's choice: DESIGN CHOICE, unsafe
(log 16).
-/

namespace Sys2Proof.Machine

/-- Whether the coming edge performs a micro-step: no reset, `RUN`, and the last cycle of the slot (R101, R133). -/
def microstepDue (s : State) : Bool :=
  !(hostDrive s).rst && decide (s.seq.mode = .run) && !decide (s.seq.div < Config.spiDiv - 1)

/-- The state after `n` edges, if the machine does not stop before. -/
def after : Nat → State → Option State
  | 0, s => some s
  | n + 1, s =>
    match step s with
    | .next s' => after n s'
    | .fault _ => none
    | .refused _ => none

/-- The trace of the next `n` edges: the triple `(CS, CLK, DIN)` after each micro-step, in order (R108). An edge with
`rst` = 1 performs no micro-step, so it adds no triple and the trace goes on across it: where it cuts a frame, the rise of
`CS` at that edge (R252) is not in the trace, and the trace does not begin anew. R108 speaks of the frames since reset
only: DESIGN CHOICE, unsafe (log 16). -/
def wireTrace : Nat → State → List Lines
  | 0, _ => []
  | n + 1, s =>
    match step s with
    | .next s' => if microstepDue s then s'.line :: wireTrace n s' else wireTrace n s'
    | .fault _ => []
    | .refused _ => []

/-- The levels after the first `n` micro-steps of frame `w`, from the levels `l` (R103). -/
def levelsAfter (w : Word) (l : Lines) : Nat → Lines
  | 0 => l
  | n + 1 => microstepLines w n (levelsAfter w l n)

/-- The fifty triples of frame `w`, from the levels `l` (R108). -/
def frameTrace (w : Word) (l : Lines) : List Lines := (List.range 50).map fun ms => levelsAfter w l (ms + 1)

/-- The bits a receiver samples: `DIN` after each micro-step at which `CLK` goes from 0 to 1 (R109, R110). `prev` holds
the levels before the trace. -/
def samples : Lines → List Lines → List Bool
  | _, [] => []
  | prev, l :: rest => if !prev.clk && l.clk then l.din :: samples l rest else samples l rest

/-- The word of the sampled bits `b_0, b_1, …, b_15`: the sum of `b_j * 2^(15-j)` (R110). -/
def wordOfBits (bits : List Bool) : Word := BitVec.ofNat 16 (bits.foldl (fun n b => 2 * n + b.toNat) 0)

/-- The frames a receiver reads from a trace: it samples `DIN` where `CLK` rises and takes the word where `CS` rises;
a `CS` fall begins a segment (R109, R110). `prev` holds the levels before the trace, `bits` the bits sampled so far.
A segment that a reset cuts is not closed at the reset, since `wireTrace` does not show its `CS` rise: no word is reported
there, and its bits stand before those of the first bring-up frame, whose sixteen are the ones that `wordOfBits` keeps
(modulo 2^16). R110 gives no word for a cut segment and the spec leaves the partial frame open (R252,
93_implementation_defined.md U6): DESIGN CHOICE, unsafe (log 16). -/
def receive : Lines → List Bool → List Lines → List Word
  | _, _, [] => []
  | prev, bits, l :: rest =>
    if prev.cs && !l.cs then receive l [] rest
    else if !prev.cs && l.cs then wordOfBits bits :: receive l [] rest
    else if !prev.clk && l.clk then receive l (bits ++ [l.din]) rest
    else receive l bits rest

end Sys2Proof.Machine
end

