-- ==== Sys2Proof/Safety.lean ====
section
/-!
DEFINITION. Safety.lean: the invariants of the block, in four parts, and what a script without a reset is. They are what
every run from reset satisfies, and the premise of a claim that could fail only in states no run reaches.
-/

namespace Sys2Proof.Machine

/-- The host operation drives `rst` = 1. -/
def HostOp.resets : HostOp → Bool
  | .cycle p => p.rst
  | .waitIdle => false
  | .waitInit => false

/-- No operation of the script drives `rst` = 1. -/
def resetFree (host : List HostOp) : Bool := host.all fun op => !op.resets

/-- The host operation writes a register. -/
def HostOp.writes : HostOp → Bool
  | .cycle p => p.hWe
  | .waitIdle => false
  | .waitInit => false

/-- No operation of the script writes a register. -/
def writeFree (host : List HostOp) : Bool := host.all fun op => !op.writes

/-- The sequencer's position and the flags (R26, R30, R31, R131, R134, R220, R223). -/
structure ControlInv (s : State) : Prop where
  busy_iff     : s.status.busy = true ↔ s.seq.mode ≠ .idle
  list_length  : s.seq.fq.length ≤ 12
  frame_index  : s.seq.mode = .run → s.seq.fi < s.seq.fq.length
  div_bound    : s.seq.div < Config.spiDiv
  settle_bound : s.seq.settle ≤ Config.settleCycles
  settle_init  : s.seq.mode = .settle → s.seq.init = true ∧ s.seq.settle < Config.settleCycles
  idle_init    : s.seq.mode = .idle → s.seq.init = false
  init_done    : s.seq.init = true → s.status.initDone = false
  result_code  : s.status.result.toNat ≤ 2
  busy_result  : s.status.busy = true → s.status.result = resultOk

/-- The levels of the lines are those the sequencer's position gives (R103, R106). Between frames `CS` = 1 and
`CLK` = 0. Inside one, `CS` = 0, `CLK` = 1 exactly in the slot after a rise, and `DIN` holds the bit last presented. -/
structure LineInv (s : State) : Prop where
  still_ms : s.seq.mode ≠ .run → s.seq.ms.val = 0
  cs_level : s.line.cs = decide (s.seq.ms.val = 0)
  clk_level : s.line.clk = decide (3 ≤ s.seq.ms.val ∧ s.seq.ms.val % 3 = 0)
  din_level : ∀ w, s.seq.mode = .run → 2 ≤ s.seq.ms.val → s.seq.fq[s.seq.fi]? = some w →
    s.line.din = sentBit w ((s.seq.ms.val - 2) / 3)

/-- A frame the block may send: the instruction bytes of R105, and for the control registers only the values that fit
(R29: intensity 0 to 15, scan limit 0 to 7, shutdown 0 or 1, display test 0). -/
def legalFrame (w : Word) : Bool :=
  (decide (1 ≤ (instrByte w).toNat) && decide ((instrByte w).toNat ≤ 8))
  || (decide (instrByte w = 0x0A#8) && decide ((dataByte w).toNat ≤ 15))
  || (decide (instrByte w = 0x0B#8) && decide ((dataByte w).toNat ≤ 7))
  || (decide (instrByte w = 0x0C#8) && decide ((dataByte w).toNat ≤ 1))
  || (decide (instrByte w = 0x0F#8) && decide (dataByte w = 0x00#8))

/-- Every frame held or sent is legal, and display test is never switched on (R28, R105, R262). -/
structure WireInv (s : State) : Prop where
  queue_legal : s.seq.fq.all legalFrame = true
  last_legal  : s.lastFrame = 0x0000#16 ∨ legalFrame s.lastFrame = true
  test_off    : s.shadow.test = false

/-- The course of a bring-up: its list is `INIT_FRAMES`, and `KNOWN` is set once its fourth frame has closed
(R29, R107, R140, R141). -/
structure BringUpInv (s : State) : Prop where
  bringUp_list    : s.seq.init = true → s.seq.fq = initFrames
  known_in_run    : s.seq.init = true → s.seq.mode = .run → 3 < s.seq.fi → s.shadow.known = true
  known_in_settle : s.seq.mode = .settle → s.shadow.known = true
  known_when_done : s.status.initDone = true → s.shadow.known = true

/-- The invariant of the block. -/
structure Inv (s : State) : Prop where
  control : ControlInv s
  lines   : LineInv s
  wire    : WireInv s
  bringUp : BringUpInv s

end Sys2Proof.Machine
end

