-- ==== Sys2Proof/Certificates/Slice0/Obligations.lean ====
section
/-!
DEFINITION. Certificates/Slice0/Obligations.lean: the statements for the provers. Each docstring names the rules of
spec/ it rests on. `Config.spiDiv`, `Config.settleCycles` and the ROM are free values: every statement holds for all
their values. `wireTrace` and `receive` are the model's reading of a run (notes/assumptions/14.md); no statement that
uses them runs across a reset edge (notes/assumptions/16.md).
-/

open Sys2Proof Sys2Proof.Machine

/-! ## Encoding -/

/-- Decode and encode agree in both directions (R82, R84, R87): the word of a command decodes to it, and a word that
decodes to a command carries that command's word in its used bits, so no operand bit is lost or invented. -/
def Obligations.DecodeAndEncodeAgree : Prop :=
  (∀ i : Instr, i.wellFormed = true → decode (encode i) = some i)
  ∧ (∀ (w : Word) (i : Instr), decode w = some i → encode i = w &&& usedBits i)

/-- R87: each command is selected by `(w16 & 0xF000) == OP << 12`, with its operands at the pattern's places. -/
def Obligations.CommandsAreSelectedByMatchAndMask : Prop :=
  ∀ w : Word,
    (decode w = some .init ↔ w &&& 0xF000#16 = 0x1000#16)
    ∧ (decode w = some .on ↔ w &&& 0xF000#16 = 0x2000#16)
    ∧ (decode w = some .off ↔ w &&& 0xF000#16 = 0x3000#16)
    ∧ (∀ v, decode w = some (.bright v) ↔ w &&& 0xF000#16 = 0x4000#16 ∧ v = w.extractLsb' 0 8)
    ∧ (∀ v, decode w = some (.scan v) ↔ w &&& 0xF000#16 = 0x5000#16 ∧ v = w.extractLsb' 0 8)
    ∧ (decode w = some .clear ↔ w &&& 0xF000#16 = 0x6000#16)
    ∧ (∀ p c, decode w = some (.char p c) ↔
        w &&& 0xF000#16 = 0x7000#16 ∧ p = w.extractLsb' 8 3 ∧ c = w.extractLsb' 0 8)
    ∧ (∀ n, decode w = some (.str n) ↔ w &&& 0xF000#16 = 0x8000#16 ∧ n = w.extractLsb' 8 4)

/-- R84: a word that differs from `w` only in bits the command does not use (bits 11:0 of `INIT`, `ON`, `OFF`, `CLEAR`;
11:8 of `BRIGHT`, `SCAN`; bit 11 of `CHAR`; 7:0 of `STR`) decodes to the same command and has the same effect. -/
def Obligations.UnusedCommandBitsAreIgnored : Prop :=
  (∀ (w w' : Word) (i : Instr), decode w = some i → w' &&& usedBits i = w &&& usedBits i →
    decode w' = some i ∧ ∀ s : State, writeCmd w' s = writeCmd w s)
  ∧ usedBits .init = 0xF000#16 ∧ usedBits .on = 0xF000#16 ∧ usedBits .off = 0xF000#16 ∧ usedBits .clear = 0xF000#16
  ∧ (∀ v, usedBits (.bright v) = 0xF0FF#16) ∧ (∀ v, usedBits (.scan v) = 0xF0FF#16)
  ∧ (∀ p c, usedBits (.char p c) = 0xF7FF#16) ∧ (∀ n, usedBits (.str n) = 0xFF00#16)

/-- The worked encodings of 30_encoding.md section 4 (R90, an inference the spec marks as its own, from R81, R83, R88):
words written by hand from the format. -/
def Obligations.WorkedEncodingsDecode : Prop :=
  asmWord (.bright 15) = some 0x400F#16 ∧ decode 0x400F#16 = some (.bright 15#8)
  ∧ asmWord (.scan 7) = some 0x5007#16 ∧ decode 0x5007#16 = some (.scan 7#8)
  ∧ asmWord (.char 3 0x48) = some 0x7348#16 ∧ decode 0x7348#16 = some (.char 3#3 0x48#8)
  ∧ asmWord (.char 0 0x61) = some 0x7061#16 ∧ decode 0x7061#16 = some (.char 0#3 0x61#8)
  ∧ asmWord (.str 5) = some 0x8500#16 ∧ decode 0x8500#16 = some (.str 5#4)
  ∧ asmWord (.str 9) = some 0x8900#16 ∧ decode 0x8900#16 = some (.str 9#4)
  ∧ decode 0x20FF#16 = some .on
  ∧ ∀ s : State, s.status.busy = false →
      writeCmd 0x8900#16 s = .next { s with status := { s.status with result := 1#4 } }
      ∧ writeCmd 0x0000#16 s = .next { s with status := { s.status with result := 2#4 } }
      ∧ writeCmd 0xF123#16 s = .next { s with status := { s.status with result := 2#4 } }

/-- R88: the number the assembler's table gives for a command of the notation is the word of the command it assembles
to, and an operand outside its bracketed range is an error on both sides. -/
def Obligations.AssemblerAgreesWithEncoder : Prop :=
  (∀ a : AsmCmd, asmWord a = (assemble a).map encode) ∧ (∀ a : AsmCmd, asmWord a = none ↔ a.wellFormed = false)

/-! ## Steps and commands -/

/-- A step at which the host writes a word that decodes to a command runs that command (R52, R130), and then the
sequencer's step (R133). `exec` never stops (R19, R227). That the sequencer's step goes by the mode at the START of the
cycle, so that with the sequencer idle the step IS the command, is the model's reading of R133 and not its words:
DEDUCED, unsafe (notes/assumptions/5.md). -/
def Obligations.StepRunsTheDecodedCommand : Prop :=
  ∀ (s : State) (w : Word) (i : Instr) (rest : List HostOp),
    s.host = .cycle { rst := false, hWe := true, hAddr := 0#3, hWdata := w } :: rest → decode w = some i →
    (∃ t, exec i { s with host := rest } = .next t ∧ step s = seqEdge s.seq.mode t)
    ∧ (s.seq.mode = .idle → step s = exec i { s with host := rest })

/-- R130, R224, R86: a word written to `CMD` has exactly one outcome, by the first case that matches: dropped, then
`ERR_OPCODE`, then `ERR_RANGE`, then accepted. -/
def Obligations.CommandWriteHasOneOutcome : Prop :=
  ∀ (w : Word) (s : State),
    (s.status.busy = true → writeCmd w s = .next { s with status := { s.status with ovr := true } })
    ∧ (s.status.busy = false → decode w = none →
        writeCmd w s = .next { s with status := { s.status with result := 2#4 } })
    ∧ (∀ i, s.status.busy = false → decode w = some i → inRange i = false →
        writeCmd w s = .next { s with status := { s.status with result := 1#4 } })
    ∧ (∀ i, s.status.busy = false → decode w = some i → inRange i = true →
        writeCmd w s = .next (acceptCommand (isBringUp i) (framesOf s i) s))
    ∧ (decode w = none ↔ (w.extractLsb' 12 4 = 0#4 ∨ 9 ≤ (w.extractLsb' 12 4).toNat))
    ∧ (∀ i, inRange i = false ↔
        ((∃ v, i = .bright v ∧ 15 < v.toNat) ∨ (∃ v, i = .scan v ∧ 7 < v.toNat) ∨ (∃ n, i = .str n ∧ 8 < n.toNat)))

/-- R131: what accepting a command writes, for every command, and that only `STR` with `len` = 0 has no frame. -/
def Obligations.AcceptingACommand : Prop :=
  ∀ (i : Instr) (s : State), s.status.busy = false → inRange i = true →
    (framesOf s i = [] ↔ i = .str 0#4)
    ∧ (framesOf s i = [] →
        exec i s = .next { s with
          status := { s.status with result := 0#4 }
          seq := { s.seq with init := false } })
    ∧ (framesOf s i ≠ [] →
        exec i s = .next { s with
          status := { s.status with
            result := 0#4, busy := true, initDone := if i = .init then false else s.status.initDone }
          seq := { s.seq with
            mode := .run, fq := framesOf s i, fi := 0, ms := 0, div := 0, init := decide (i = .init) } })

/-- R140, R141: `INIT` loads the twelve bring-up frames, clears `INIT_DONE` and marks the bring-up; everything else,
the string buffer and `SHADOW` among it, is unchanged. -/
def Obligations.InitExecutes : Prop :=
  ∀ s : State, s.status.busy = false →
    exec .init s = .next { s with
      status := { s.status with result := 0#4, busy := true, initDone := false }
      seq := { s.seq with
        mode := .run
        fq := [0x0F00#16, 0x0B07#16, 0x0A0F#16, 0x0C01#16, 0x0800#16, 0x0700#16, 0x0600#16, 0x0500#16,
          0x0400#16, 0x0300#16, 0x0200#16, 0x0100#16]
        fi := 0, ms := 0, div := 0, init := true } }

/-- R145, R146: `ON` and `OFF` load one shutdown-register frame each, with 1 and 0, and change nothing else. -/
def Obligations.OnAndOffExecute : Prop :=
  ∀ s : State, s.status.busy = false →
    exec .on s = .next { s with
      status := { s.status with result := 0#4, busy := true }
      seq := { s.seq with mode := .run, fq := [0x0C01#16], fi := 0, ms := 0, div := 0, init := false } }
    ∧ exec .off s = .next { s with
      status := { s.status with result := 0#4, busy := true }
      seq := { s.seq with mode := .run, fq := [0x0C00#16], fi := 0, ms := 0, div := 0, init := false } }

/-- R150: `BRIGHT` with a value up to 15 loads the intensity frame; above 15 it only sets `RESULT` to 1. -/
def Obligations.BrightExecutes : Prop :=
  ∀ (s : State) (value : Byte), s.status.busy = false →
    (value.toNat ≤ 15 → exec (.bright value) s = .next { s with
      status := { s.status with result := 0#4, busy := true }
      seq := { s.seq with mode := .run, fq := [0x0A#8 ++ value], fi := 0, ms := 0, div := 0, init := false } })
    ∧ (15 < value.toNat → exec (.bright value) s = .next { s with status := { s.status with result := 1#4 } })

/-- R160: `SCAN` with a limit up to 7 loads the scan-limit frame; above 7 it only sets `RESULT` to 1. -/
def Obligations.ScanExecutes : Prop :=
  ∀ (s : State) (limit : Byte), s.status.busy = false →
    (limit.toNat ≤ 7 → exec (.scan limit) s = .next { s with
      status := { s.status with result := 0#4, busy := true }
      seq := { s.seq with mode := .run, fq := [0x0B#8 ++ limit], fi := 0, ms := 0, div := 0, init := false } })
    ∧ (7 < limit.toNat → exec (.scan limit) s = .next { s with status := { s.status with result := 1#4 } })

/-- R190: `CLEAR` loads eight blank digit frames, registers 8 down to 1, and changes nothing else. -/
def Obligations.ClearExecutes : Prop :=
  ∀ s : State, s.status.busy = false →
    exec .clear s = .next { s with
      status := { s.status with result := 0#4, busy := true }
      seq := { s.seq with
        mode := .run
        fq := [0x0800#16, 0x0700#16, 0x0600#16, 0x0500#16, 0x0400#16, 0x0300#16, 0x0200#16, 0x0100#16]
        fi := 0, ms := 0, div := 0, init := false } }

/-- R195: `CHAR`, at every place and every code, loads one frame to digit register `place + 1`. -/
def Obligations.CharExecutes : Prop :=
  ∀ (s : State) (place : BitVec 3) (ch : Byte), s.status.busy = false →
    exec (.char place ch) s = .next { s with
      status := { s.status with result := 0#4, busy := true }
      seq := { s.seq with
        mode := .run, fq := [BitVec.ofNat 8 (place.toNat + 1) ++ lookup ch], fi := 0, ms := 0, div := 0, init := false } }

/-- R200, R201, R204: `STR` with length 1 to 8 loads one frame a character of the string buffer, the last character
first and to digit register 8; with length 0 it completes at once; above 8 it only sets `RESULT` to 1. -/
def Obligations.StrExecutes : Prop :=
  ∀ (s : State) (len : BitVec 4), s.status.busy = false →
    (1 ≤ len.toNat → len.toNat ≤ 8 → ∃ F : List Word,
      exec (.str len) s = .next { s with
        status := { s.status with result := 0#4, busy := true }
        seq := { s.seq with mode := .run, fq := F, fi := 0, ms := 0, div := 0, init := false } }
      ∧ F.length = len.toNat
      ∧ ∀ k, k < len.toNat →
          F[k]? = some (BitVec.ofNat 8 (8 - k) ++ lookup ((bufferChars s.str).getD (len.toNat - 1 - k) 0#8)))
    ∧ (len.toNat = 0 → exec (.str len) s = .next { s with
        status := { s.status with result := 0#4 }, seq := { s.seq with init := false } })
    ∧ (8 < len.toNat → exec (.str len) s = .next { s with status := { s.status with result := 1#4 } })

/-- R221: a rejection writes `RESULT` and nothing else, and `ERR_RANGE` is raised by exactly `BRIGHT` 16 to 255, `SCAN`
8 to 255 and `STR` 9 to 15. -/
def Obligations.RejectionChangesOnlyResult : Prop :=
  ∀ (w : Word) (s t : State), s.status.busy = false → writeCmd w s = .next t →
    (t.status.result ≠ 0#4 → t = { s with status := { s.status with result := t.status.result } })
    ∧ (t.status.result = 1#4 ↔
        ((∃ v, decode w = some (.bright v) ∧ 16 ≤ v.toNat) ∨ (∃ v, decode w = some (.scan v) ∧ 8 ≤ v.toNat)
          ∨ (∃ n, decode w = some (.str n) ∧ 9 ≤ n.toNat)))

/-- R222: `OP` 0x0 and 0x9 to 0xF report `ERR_OPCODE`, whatever the other bits, with the effects of R221. -/
def Obligations.IllegalOpcodesReportErrOpcode : Prop :=
  ∀ (w : Word) (s : State), s.status.busy = false →
    (w.extractLsb' 12 4 = 0#4 ∨ 9 ≤ (w.extractLsb' 12 4).toNat) →
    writeCmd w s = .next { s with status := { s.status with result := 2#4 } }

/-! ## Host accesses -/

/-- R223: with `BUSY` = 1 at the start of the cycle, a write to `CMD` or to the string buffer changes nothing except
`OVR <- 1`; `RESULT` keeps the code of the command in progress, 0 in every state of the invariant. -/
def Obligations.BusyDropsCommandAndBufferWrites : Prop :=
  ∀ (p : PortIn) (s : State), s.status.busy = true → p.hWe = true → p.hAddr = 0#3 ∨ (2 ≤ p.hAddr.toNat ∧ p.hAddr.toNat ≤ 5) →
    hostEdge p s = .next { s with status := { s.status with ovr := true } }
    ∧ (ControlInv s → s.status.result = 0#4)

/-- R33, R223: over a whole step, `OVR` rises only by a dropped write and falls only by a reset or by a `STATUS` write
with bit 2 = 1. -/
def Obligations.OverrunFlagIsSticky : Prop :=
  ∀ s t : State, step s = .next t →
    (s.status.ovr = true → t.status.ovr = false →
      (hostDrive s).rst = true
      ∨ ((hostDrive s).hWe = true ∧ (hostDrive s).hAddr = 1#3 ∧ (hostDrive s).hWdata.getLsbD 2 = true))
    ∧ (s.status.ovr = false → t.status.ovr = true →
      s.status.busy = true ∧ (hostDrive s).rst = false ∧ (hostDrive s).hWe = true
      ∧ ((hostDrive s).hAddr = 0#3 ∨ (2 ≤ (hostDrive s).hAddr.toNat ∧ (hostDrive s).hAddr.toNat ≤ 5)))

/-- R57: a `STATUS` write clears `OVR` if bit 2 is 1 and does nothing else, whatever `BUSY` is. -/
def Obligations.StatusWriteClearsOverrun : Prop :=
  ∀ (v : Word) (s : State),
    (v.getLsbD 2 = true → writeReg (regAt 1#3) v s = .next { s with status := { s.status with ovr := false } })
    ∧ (v.getLsbD 2 = false → writeReg (regAt 1#3) v s = .next s)

/-- R59: a string-buffer write stores its word with `BUSY` = 0, and is dropped, setting `OVR`, with `BUSY` = 1. -/
def Obligations.StringBufferWrites : Prop :=
  ∀ (v : Word) (s : State),
    (s.status.busy = false →
      writeReg (regAt 2#3) v s = .next { s with str := { s.str with str01 := v } }
      ∧ writeReg (regAt 3#3) v s = .next { s with str := { s.str with str23 := v } }
      ∧ writeReg (regAt 4#3) v s = .next { s with str := { s.str with str45 := v } }
      ∧ writeReg (regAt 5#3) v s = .next { s with str := { s.str with str67 := v } })
    ∧ (s.status.busy = true → ∀ a : HostAddr, 2 ≤ a.toNat → a.toNat ≤ 5 →
        writeReg (regAt a) v s = .next { s with status := { s.status with ovr := true } })

/-- R58: writes to `LASTFRAME` (6) and `SHADOW` (7) change nothing. -/
def Obligations.ReadOnlyRegistersIgnoreWrites : Prop :=
  ∀ (v : Word) (s : State), writeReg (regAt 6#3) v s = .next s ∧ writeReg (regAt 7#3) v s = .next s

/-- R23, R24, R26, R29: what a host read of each address returns, bit by bit for `STATUS` and `SHADOW`; reserved bits
and `CMD` read 0. -/
def Obligations.HostReadsReturnTheRegisters : Prop :=
  ∀ s : State,
    readReg (regAt 0#3) s = 0x0000#16
    ∧ readReg (regAt 2#3) s = s.str.str01 ∧ readReg (regAt 3#3) s = s.str.str23
    ∧ readReg (regAt 4#3) s = s.str.str45 ∧ readReg (regAt 5#3) s = s.str.str67
    ∧ readReg (regAt 6#3) s = s.lastFrame
    ∧ (let v := readReg (regAt 1#3) s
       v.getLsbD 0 = s.status.busy ∧ v.getLsbD 1 = s.status.initDone ∧ v.getLsbD 2 = s.status.ovr ∧ v.getLsbD 3 = false
       ∧ v.extractLsb' 4 4 = s.status.result ∧ v.getLsbD 8 = s.line.cs ∧ v.getLsbD 9 = s.line.clk
       ∧ v.getLsbD 10 = s.line.din ∧ v.extractLsb' 11 5 = 0#5)
    ∧ (let v := readReg (regAt 7#3) s
       v.extractLsb' 0 4 = s.shadow.intensity ∧ v.extractLsb' 4 3 = s.shadow.scanLimit ∧ v.getLsbD 7 = s.shadow.normalOp
       ∧ v.getLsbD 8 = s.shadow.test ∧ v.extractLsb' 9 6 = 0#6 ∧ v.getLsbD 15 = s.shadow.known)

/-- R27, R55: the register at address `2 + k` holds `S[2k]` in bits 7:0 and `S[2k+1]` in bits 15:8. -/
def Obligations.StringBufferPacking : Prop :=
  ∀ (s : State) (k : Nat), k < 4 →
    (bufferChars s.str)[2 * k]? = some ((readReg (regAt (BitVec.ofNat 3 (2 + k))) s).extractLsb' 0 8)
    ∧ (bufferChars s.str)[2 * k + 1]? = some ((readReg (regAt (BitVec.ofNat 3 (2 + k))) s).extractLsb' 8 8)

/-- R53, R60: a cycle without a write strobe changes nothing of the block but by the sequencer's own step, whatever
address is read, and a polling loop goes on exactly when the `STATUS` value read says so (the condition of R89). That
one read of a loop takes one clock edge, and that the script goes on at that same edge, is no rule: DESIGN CHOICE, unsafe
(notes/assumptions/3.md). -/
def Obligations.ReadsChangeNoState : Prop :=
  (∀ (s : State) (a : HostAddr) (d : Word) (rest : List HostOp),
    s.host = .cycle { rst := false, hWe := false, hAddr := a, hWdata := d } :: rest →
      step s = seqEdge s.seq.mode { s with host := rest } ∧ hRdata s = readReg (regAt a) s)
  ∧ (∀ (s : State) (rest : List HostOp), s.host = .waitIdle :: rest →
      step s = seqEdge s.seq.mode { s with host := if s.status.busy then s.host else rest })
  ∧ (∀ (s : State) (rest : List HostOp), s.host = .waitInit :: rest →
      step s = seqEdge s.seq.mode
        { s with host := if s.status.busy || !s.status.initDone then s.host else rest })

/-! ## Frames on the wire -/

/-- R102, R103 and what the spec infers from them (R110): from idle levels, the trace of a frame has fifty triples and
sixteen samples, bit 15 first; what a receiver (notes/assumptions/14.md) decodes from them is the frame; and the decoded
word is the sum of R110. -/
def Obligations.FrameTraceDecodesToTheFrame : Prop :=
  (∀ (w : Word) (l : Lines), l.cs = true → l.clk = false →
    (frameTrace w l).length = 50
    ∧ samples l (frameTrace w l) = (List.range 16).map (fun j => w.getLsbD (15 - j))
    ∧ receive l [] (frameTrace w l) = [w])
  ∧ (∀ bits : List Bool, bits.length = 16 →
      (wordOfBits bits).toNat = ((List.range 16).map fun j => (bits.getD j false).toNat * 2 ^ (15 - j)).sum)

/-- R101, R133: in `RUN`, whatever the host does short of a reset, the lines hold for `SPI_DIV - 1` edges and the
micro-step happens at the `SPI_DIV`-th. -/
def Obligations.MicrostepTakesOneSlot : Prop :=
  ∀ (s : State) (w : Word), s.seq.mode = .run → s.status.busy = true → s.seq.div = 0 →
    s.seq.fq[s.seq.fi]? = some w → resetFree s.host = true →
    (∀ n, n < Config.spiDiv → ∃ t, after n s = some t ∧ t.line = s.line ∧ t.seq = { s.seq with div := n })
    ∧ ∃ t, after Config.spiDiv s = some t ∧ t.line = microstepLines w s.seq.ms.val s.line
        ∧ wireTrace Config.spiDiv s = [t.line] ∧ t.str = s.str ∧ t.status.result = s.status.result

/-- R101, R103, R107, R111, R133: from the start of a frame, fifty slots produce exactly the frame's fifty triples, whatever
the host does short of a reset; then `LASTFRAME` and `SHADOW` hold the frame, and the next frame of the list is next. -/
def Obligations.FrameGoesOutWhole : Prop :=
  ∀ (s : State) (w : Word), s.seq.mode = .run → s.status.busy = true → s.seq.ms.val = 0 → s.seq.div = 0 →
    s.seq.fq[s.seq.fi]? = some w → resetFree s.host = true →
    ∃ t, after (50 * Config.spiDiv) s = some t
      ∧ wireTrace (50 * Config.spiDiv) s = frameTrace w s.line
      ∧ t.lastFrame = w ∧ t.shadow = shadowAfter (s.seq.init && decide (s.seq.fi = 3)) w s.shadow
      ∧ t.str = s.str ∧ t.status.result = s.status.result
      ∧ (s.seq.fi + 1 < s.seq.fq.length → t.status.busy = true ∧ t.seq = { s.seq with fi := s.seq.fi + 1 })

/-- R64, R65, R131 to R134, and the cycle counts the spec infers from them (R265): a command accepted from an idle block
keeps `BUSY` = 1 for exactly `50 * SPI_DIV` cycles a frame (and the settle delay for `INIT`; none for `STR` with length
0); then a receiver has read exactly its frames, in order (R110, the receiver of notes/assumptions/14.md), and `RESULT`,
`LASTFRAME`, `SHADOW`, `INIT_DONE` and the string buffer are as the rules say, whatever the host does meanwhile short of
a reset. -/
def Obligations.CommandFramesGoOutInOrder : Prop :=
  ∀ (s : State) (w : Word) (i : Instr) (rest : List HostOp),
    s.status.busy = false → s.seq.mode = .idle → s.line.cs = true → s.line.clk = false →
    s.host = .cycle { rst := false, hWe := true, hAddr := 0#3, hWdata := w } :: rest → resetFree rest = true →
    decode w = some i → inRange i = true →
    let F := framesOf s i
    let n := 1 + 50 * F.length * Config.spiDiv + (if i = .init then Config.settleCycles else 0)
    (∀ k, 1 ≤ k → k < n → ∃ u, after k s = some u ∧ u.status.busy = true)
    ∧ ∃ t, after n s = some t ∧ t.status.busy = false ∧ t.seq.mode = .idle ∧ t.status.result = 0#4
      ∧ receive s.line [] (wireTrace n s) = F
      ∧ t.lastFrame = F.getLastD s.lastFrame ∧ t.str = s.str ∧ t.line.cs = true ∧ t.line.clk = false
      ∧ (i = .init → t.status.initDone = true ∧ readReg .shadow t = 0x80FF#16)
      ∧ (i ≠ .init → t.status.initDone = s.status.initDone
          ∧ t.shadow = F.foldl (fun sh f => shadowAfter false f sh) s.shadow)

/-- R145, R146, R150, R160, R195, R107: each single-frame command, issued to an idle block and in range, sends exactly
its one frame (R110, the receiver of notes/assumptions/14.md), ends `50 * SPI_DIV` cycles after the accepting edge (R101,
R133, R134; the count the spec infers is R265) with `RESULT` 0 and that frame in `LASTFRAME`, and updates exactly its own
field of `SHADOW`. -/
def Obligations.SingleFrameCommandsComplete : Prop :=
  ∀ (s : State) (i : Instr) (f : Word) (sh : Shadow) (rest : List HostOp),
    s.status.busy = false → s.seq.mode = .idle → s.line.cs = true → s.line.clk = false →
    s.host = .cycle { rst := false, hWe := true, hAddr := 0#3, hWdata := encode i } :: rest → resetFree rest = true →
    ((i = .on ∧ f = 0x0C01#16 ∧ sh = { s.shadow with normalOp := true })
      ∨ (i = .off ∧ f = 0x0C00#16 ∧ sh = { s.shadow with normalOp := false })
      ∨ (∃ v, i = .bright v ∧ v.toNat ≤ 15 ∧ f = 0x0A#8 ++ v ∧ sh = { s.shadow with intensity := v.extractLsb' 0 4 })
      ∨ (∃ v, i = .scan v ∧ v.toNat ≤ 7 ∧ f = 0x0B#8 ++ v ∧ sh = { s.shadow with scanLimit := v.extractLsb' 0 3 })
      ∨ (∃ p c, i = .char p c ∧ f = BitVec.ofNat 8 (p.toNat + 1) ++ lookup c ∧ sh = s.shadow)) →
    ∃ t, after (1 + 50 * Config.spiDiv) s = some t
      ∧ receive s.line [] (wireTrace (1 + 50 * Config.spiDiv) s) = [f]
      ∧ t.status = { s.status with result := 0#4, ovr := t.status.ovr }
      ∧ t.lastFrame = f ∧ t.shadow = sh ∧ t.str = s.str ∧ t.seq.mode = .idle

/-- R35, R141, R142, R251, R255, and the state the spec infers from them (R256): from reset, whatever the host does short
of a reset, the bring-up runs by itself: `CS` first falls at the `SPI_DIV`-th edge, `BUSY` stays 1 for
`600 * SPI_DIV + SETTLE_CYCLES` edges (R133, R134; the count the spec infers is R265), a receiver reads exactly the twelve
frames (R110, the receiver of notes/assumptions/14.md), and the state is then that of R256, `OVR` being 0 if the host
wrote nothing. -/
def Obligations.BootReachesTheReadyState : Prop :=
  ∀ host : List HostOp, resetFree host = true →
    let s : State := { State.reset with host := host }
    let n := 600 * Config.spiDiv + Config.settleCycles
    (∀ k, k < Config.spiDiv → ∃ u, after k s = some u ∧ u.line.cs = true)
    ∧ (∃ u, after Config.spiDiv s = some u ∧ u.line.cs = false)
    ∧ (∀ k, k < n → ∃ u, after k s = some u ∧ u.status.busy = true)
    ∧ receive s.line [] (wireTrace n s) =
        [0x0F00#16, 0x0B07#16, 0x0A0F#16, 0x0C01#16, 0x0800#16, 0x0700#16, 0x0600#16, 0x0500#16,
          0x0400#16, 0x0300#16, 0x0200#16, 0x0100#16]
    ∧ ∃ t, after n s = some t
      ∧ t.status = { busy := false, initDone := true, ovr := t.status.ovr, result := 0#4 }
      ∧ t.line = { cs := true, clk := false, din := false }
      ∧ t.lastFrame = 0x0100#16 ∧ readReg .shadow t = 0x80FF#16
      ∧ t.str = { str01 := 0x0000#16, str23 := 0x0000#16, str45 := 0x0000#16, str67 := 0x0000#16 }
      ∧ t.seq.mode = .idle
      ∧ (writeFree host = true → readReg .status t = 0x0102#16)

/-- R145, R146, R134 and what the spec infers from them (R147): `ON` then `OFF`, each issued with `BUSY` = 0, transmit
exactly the two frames 0x0C01 and 0x0C00 (R110, the receiver of notes/assumptions/14.md): two fixed words and one fixed
script. The host waits between them with `WAITIDLE` (R89); that a read of the loop takes one cycle is the model's choice:
DESIGN CHOICE, unsafe (notes/assumptions/3.md). -/
def Obligations.OnThenOffSendTwoFrames : Prop :=
  ∀ s : State, s.status.busy = false → s.seq.mode = .idle → s.line.cs = true → s.line.clk = false →
    s.host = [.cycle { rst := false, hWe := true, hAddr := 0#3, hWdata := 0x2000#16 }, .waitIdle,
      .cycle { rst := false, hWe := true, hAddr := 0#3, hWdata := 0x3000#16 }] →
    ∀ m, ∃ t, after (3 + 100 * Config.spiDiv + m) s = some t
      ∧ receive s.line [] (wireTrace (3 + 100 * Config.spiDiv + m) s) = [0x0C01#16, 0x0C00#16]
      ∧ t.status.busy = false ∧ t.lastFrame = 0x0C00#16 ∧ t.shadow = { s.shadow with normalOp := false }

/-- R107: the closing micro-step raises `CS` and, at the same edge, writes `LASTFRAME` and the field of `SHADOW` its
instruction byte names; `KNOWN` is set by frame index 3 of a bring-up. -/
def Obligations.ClosingAFrameRecordsIt : Prop :=
  ∀ (s : State) (w : Word), s.seq.ms.val = 49 →
    (slotEnd w s).line = { s.line with cs := true }
    ∧ (slotEnd w s).lastFrame = w
    ∧ (slotEnd w s).shadow.intensity =
        (if w.extractLsb' 8 8 = 0x0A#8 then w.extractLsb' 0 4 else s.shadow.intensity)
    ∧ (slotEnd w s).shadow.scanLimit =
        (if w.extractLsb' 8 8 = 0x0B#8 then w.extractLsb' 0 3 else s.shadow.scanLimit)
    ∧ (slotEnd w s).shadow.normalOp = (if w.extractLsb' 8 8 = 0x0C#8 then w.getLsbD 0 else s.shadow.normalOp)
    ∧ (slotEnd w s).shadow.test = (if w.extractLsb' 8 8 = 0x0F#8 then w.getLsbD 0 else s.shadow.test)
    ∧ (slotEnd w s).shadow.known = (if s.seq.init = true ∧ s.seq.fi = 3 then true else s.shadow.known)

/-- R134, R142: after the last `CS` rise of a bring-up the block stays busy with the lines idle for `SETTLE_CYCLES`
cycles, and only then sets `INIT_DONE` = 1 and `BUSY` = 0. -/
def Obligations.BringUpEndsAfterTheSettleDelay : Prop :=
  ∀ (s : State) (w : Word), s.seq.mode = .run → s.status.busy = true → s.seq.init = true → s.seq.ms.val = 49 →
    s.seq.div = Config.spiDiv - 1 → s.seq.fq[s.seq.fi]? = some w → s.seq.fi + 1 = s.seq.fq.length →
    s.line.clk = false → resetFree s.host = true →
    (∀ k, 1 ≤ k → k ≤ Config.settleCycles → ∃ u, after k s = some u ∧ u.status.busy = true
        ∧ u.status.initDone = s.status.initDone ∧ u.line = { cs := true, clk := false, din := s.line.din })
    ∧ ∃ t, after (1 + Config.settleCycles) s = some t ∧ t.status.busy = false ∧ t.status.initDone = true
        ∧ t.seq.mode = .idle ∧ t.seq.init = false ∧ t.line = { cs := true, clk := false, din := s.line.din }

/-- R130, R134, R229: the `BUSY` of a command that is no bring-up falls at the edge of its last `CS` rise, and a write to
`CMD` at that very edge is still dropped, because `BUSY` was 1 at the start of the cycle. (A bring-up ends after its
settle delay and is not spoken of here.) That `seq.fq`, `seq.fi` and `seq.settle` then keep their values is no rule:
DEDUCED, unsafe (notes/assumptions/15.md). -/
def Obligations.WriteAtTheFallOfBusyIsDropped : Prop :=
  ∀ (s : State) (f w : Word) (rest : List HostOp), s.seq.mode = .run → s.status.busy = true → s.seq.init = false →
    s.seq.ms.val = 49 → s.seq.div = Config.spiDiv - 1 → s.seq.fq[s.seq.fi]? = some f →
    s.seq.fi + 1 = s.seq.fq.length →
    s.host = .cycle { rst := false, hWe := true, hAddr := 0#3, hWdata := w } :: rest →
    ∃ t, step s = .next t ∧ t.status = { s.status with busy := false, ovr := true }
      ∧ t.seq = { s.seq with mode := .idle, ms := 0, div := 0 } ∧ t.line = { s.line with cs := true }
      ∧ t.lastFrame = f ∧ t.str = s.str

/-- R133, R135: with the sequencer idle, a step without a reset moves no line and touches neither `LASTFRAME` nor
`SHADOW`; without a write it changes nothing of the block. -/
def Obligations.IdleBlockHoldsTheLines : Prop :=
  ∀ s t : State, s.seq.mode = .idle → (hostDrive s).rst = false → step s = .next t →
    t.line = s.line ∧ t.lastFrame = s.lastFrame ∧ t.shadow = s.shadow
    ∧ ((hostDrive s).hWe = false → t = { s with host := hostRest s })

/-- R64, R67, R130: while `BUSY` = 1 the host, short of a reset, influences nothing but `OVR`: two hosts that
do different things leave the block in the same state but for it. -/
def Obligations.HostCannotDisturbARunningCommand : Prop :=
  ∀ (s t₁ t₂ : State) (h₁ h₂ : List HostOp), s.status.busy = true → resetFree h₁ = true → resetFree h₂ = true →
    step { s with host := h₁ } = .next t₁ → step { s with host := h₂ } = .next t₂ →
    t₁ = { t₂ with host := t₁.host, status := { t₂.status with ovr := t₁.status.ovr } }

/-- R33, R135: the host's access never writes the lines, `LASTFRAME` or `SHADOW`, never clears `BUSY` and never sets
`INIT_DONE`; the sequencer's step never writes the string buffer, `OVR` or `RESULT`, and never sets `BUSY` or clears
`INIT_DONE`. That the sequencer's step also leaves the frame list `seq.fq` as it is, at the step that ends a list too, is
in neither rule: DEDUCED, unsafe (notes/assumptions/15.md). -/
def Obligations.HostAndSequencerWriteSeparateState : Prop :=
  (∀ (p : PortIn) (s t : State), hostEdge p s = .next t →
    t.line = s.line ∧ t.lastFrame = s.lastFrame ∧ t.shadow = s.shadow ∧ t.host = s.host
    ∧ (s.status.busy = true → t.status.busy = true ∧ t.seq = s.seq ∧ t.str = s.str)
    ∧ (t.status.initDone = true → s.status.initDone = true))
  ∧ (∀ (m : SeqMode) (s t : State), seqEdge m s = .next t →
    t.str = s.str ∧ t.host = s.host ∧ t.status.ovr = s.status.ovr ∧ t.status.result = s.status.result
    ∧ t.seq.fq = s.seq.fq
    ∧ (t.status.busy = true → s.status.busy = true) ∧ (s.status.initDone = true → t.status.initDone = true))

/-! ## Reset -/

/-- R35, R250: an edge with `rst` = 1 gives every piece of state its reset value, whatever it held, and the write of
that cycle has no effect; `STATUS` then reads 0x0101. -/
def Obligations.ResetEdgeRestoresEverything : Prop :=
  ∀ (s : State) (p : PortIn) (rest : List HostOp), s.host = .cycle p :: rest → p.rst = true →
    ∃ t, step s = .next t
      ∧ t = { line := { cs := true, clk := false, din := false }
              status := { busy := true, initDone := false, ovr := false, result := 0#4 }
              str := { str01 := 0x0000#16, str23 := 0x0000#16, str45 := 0x0000#16, str67 := 0x0000#16 }
              lastFrame := 0x0000#16
              shadow := { intensity := 0#4, scanLimit := 0#3, normalOp := false, test := false, known := false }
              seq := { mode := .run
                       fq := [0x0F00#16, 0x0B07#16, 0x0A0F#16, 0x0C01#16, 0x0800#16, 0x0700#16, 0x0600#16, 0x0500#16,
                         0x0400#16, 0x0300#16, 0x0200#16, 0x0100#16]
                       fi := 0, ms := 0, div := 0, settle := 0, init := true }
              host := rest }
      ∧ readReg .status t = 0x0101#16 ∧ readReg .shadow t = 0x0000#16

/-! ## The lookup -/

/-- R172 to R175: the lookup over any ROM of any size: lowercase letters fold, the index is the code less 45, outside
the table the result is `BLANK_PATTERN` = 0x00 and the ROM is not read. -/
def Obligations.LookupFollowsTheTable : Prop :=
  (∀ (size : Nat) (rom : Nat → Byte) (c : Byte),
    let u := if 0x61 ≤ c.toNat ∧ c.toNat ≤ 0x7A then c.toNat - 32 else c.toNat
    (u < 45 → lookupIn size rom c = 0x00#8)
    ∧ (45 + size ≤ u → lookupIn size rom c = 0x00#8)
    ∧ (45 ≤ u → u < 45 + size → lookupIn size rom c = rom (u - 45)))
  ∧ ∀ c : Byte, lookup c = lookupIn Config.segRomSize segRom c

/-- The partition of 42_segment_rom.md section 3 (R178, inferred by the spec from R175): the partition of the 256 codes for every ROM of 51 to 77 entries. -/
def Obligations.LookupPartition : Prop :=
  ∀ (size : Nat) (rom : Nat → Byte) (c : Byte), 51 ≤ size → size ≤ 77 →
    (c.toNat ≤ 0x2C → lookupIn size rom c = 0x00#8)
    ∧ (0x2D ≤ c.toNat → c.toNat ≤ 0x5F → lookupIn size rom c = rom (c.toNat - 0x2D))
    ∧ (c = 0x60#8 → lookupIn size rom c = if 51 < size then rom 51 else 0x00#8)
    ∧ (0x61 ≤ c.toNat → c.toNat ≤ 0x7A →
        lookupIn size rom c = rom (c.toNat - 0x4D) ∧ lookupIn size rom c = lookupIn size rom (c - 32#8)
        ∧ 20 ≤ c.toNat - 0x4D ∧ c.toNat - 0x4D ≤ 45)
    ∧ (0x7B ≤ c.toNat → lookupIn size rom c = 0x00#8)

/-- What the spec infers from R172 and R175 (R179): lowercase and uppercase of a letter give the same pattern, `SEG_ROM[20 + k]`. -/
def Obligations.LookupIgnoresCase : Prop :=
  ∀ k : Nat, k < 26 →
    lookup (BitVec.ofNat 8 (0x61 + k)) = lookup (BitVec.ofNat 8 (0x41 + k))
    ∧ lookup (BitVec.ofNat 8 (0x41 + k)) = segRom (20 + k)

/-- What the spec infers from R175 (R180): the corner cases, at the default size 51 and for any contents. -/
def Obligations.LookupCornerCases : Prop :=
  ∀ rom : Nat → Byte,
    lookupIn 51 rom 0x20#8 = 0x00#8 ∧ lookupIn 51 rom 0x2C#8 = 0x00#8 ∧ lookupIn 51 rom 0x2D#8 = rom 0
    ∧ lookupIn 51 rom 0x5F#8 = rom 50 ∧ lookupIn 51 rom 0x60#8 = 0x00#8 ∧ lookupIn 51 rom 0x7A#8 = rom 45
    ∧ lookupIn 51 rom 0x7B#8 = 0x00#8 ∧ lookupIn 51 rom 0x00#8 = 0x00#8 ∧ lookupIn 51 rom 0xFF#8 = 0x00#8

/-! ## Strings -/

/-- R201: character `j` of `n` goes to place `8 - n + j`, digit register `9 - n + j`, the last character first. -/
def Obligations.StringFramePlacement : Prop :=
  ∀ (chars : List Byte) (n : Nat), n ≤ 8 →
    (stringFrames chars n).length = n
    ∧ ∀ j, j < n → (stringFrames chars n)[n - 1 - j]? =
        some (BitVec.ofNat 8 (9 - n + j) ++ lookup (chars.getD j 0#8))

/-- R202: a string of `n` characters sends no frame to places 0 to `7 - n`, registers 1 to `8 - n`. -/
def Obligations.StringLeavesOtherPlacesAlone : Prop :=
  ∀ (chars : List Byte) (n : Nat) (f : Word), n ≤ 8 → f ∈ stringFrames chars n →
    9 - n ≤ (f.extractLsb' 8 8).toNat ∧ (f.extractLsb' 8 8).toNat ≤ 8

/-- What the spec infers from R195 and R201 (R206): `STR` and `CHAR` agree: a string's frames are those of its characters' `CHAR` commands, last to first. -/
def Obligations.StringEqualsItsCharacters : Prop :=
  ∀ (s : State) (n : BitVec 4), n.toNat ≤ 8 →
    framesOf s (.str n) = (List.range n.toNat).reverse.flatMap fun j =>
      framesOf s (.char (BitVec.ofNat 3 (8 - n.toNat + j)) ((bufferChars s.str).getD j 0#8))

/-- What the spec infers from R201 and R171 (R205): the source's own example, `setString("HELLO")`. -/
def Obligations.HelloFrames : Prop :=
  ∀ s : State, s.status.busy = false →
    s.str = { str01 := 0x4548#16, str23 := 0x4C4C#16, str45 := 0x004F#16, str67 := 0x0000#16 } →
    writeCmd 0x8500#16 s = .next { s with
      status := { s.status with result := 0#4, busy := true }
      seq := { s.seq with
        mode := .run
        fq := [0x08#8 ++ segRom 34, 0x07#8 ++ segRom 31, 0x06#8 ++ segRom 31, 0x05#8 ++ segRom 24, 0x04#8 ++ segRom 27]
        fi := 0, ms := 0, div := 0, init := false } }

/-! ## Invariants -/

/-- R26, R30, R31, R131, R220, R223: every step keeps the control invariant: `BUSY` = 1 exactly when `seq.mode` is not `IDLE`,
the position stays inside the list, `RESULT` is at most 2, and it is 0 while a command runs. -/
def Obligations.StepKeepsControlInv : Prop :=
  ∀ s t : State, ControlInv s → step s = .next t → ControlInv t

/-- R103, and what the spec infers from it (R106): every step keeps the lines at the levels the sequencer's position gives. -/
def Obligations.StepKeepsLineInv : Prop :=
  ∀ s t : State, ControlInv s → LineInv s → step s = .next t → LineInv t

/-- R29, R132, and what the spec infers from them (R105, R262): every step keeps every frame held or sent legal, and display test off. -/
def Obligations.StepKeepsWireInv : Prop :=
  ∀ s t : State, WireInv s → step s = .next t → WireInv t

/-- R29, R107, R140: every step keeps the course of a bring-up: `INIT_DONE` = 1 implies `KNOWN` = 1. -/
def Obligations.StepKeepsBringUpInv : Prop :=
  ∀ s t : State, ControlInv s → BringUpInv s → step s = .next t → BringUpInv t

/-- R35: the state after reset satisfies the whole invariant. -/
def Obligations.ResetMeetsTheInvariant : Prop := Inv State.reset

/-- R19, R227: the block has no trap and no undefined behaviour: from every state of the control invariant, whatever
the host does, a step answers a next state. -/
def Obligations.StepNeverStops : Prop :=
  ∀ s : State, ControlInv s → ∃ t, step s = .next t
end

