-- ==== Sys2Proof/Laws/Bits.lean ====
section
/-!
SUPPORT. Laws/Bits.lean: the bits of two bytes written as one word. The word's width is 16, not `8 + 8`, which is why
the library's lemma does not apply by itself.
-/

namespace Sys2Proof

@[simp] theorem getLsbD_append_bytes (a b : Byte) (i : Nat) :
    (a ++ b : Word).getLsbD i = if i < 8 then b.getLsbD i else a.getLsbD (i - 8) := BitVec.getLsbD_append

@[simp] theorem extractLsb'_low_append (a b : Byte) : (a ++ b : Word).extractLsb' 0 8 = b := by
  ext i hi; simp [hi, BitVec.getLsbD_eq_getElem]

@[simp] theorem extractLsb'_high_append (a b : Byte) : (a ++ b : Word).extractLsb' 8 8 = a := by
  ext i hi; simp [BitVec.getLsbD_eq_getElem, hi]

theorem append_extractLsb' (w : Word) : (w.extractLsb' 8 8 ++ w.extractLsb' 0 8 : Word) = w := by
  apply BitVec.eq_of_getLsbD_eq
  intro i hi
  simp only [getLsbD_append_bytes, BitVec.getLsbD_extractLsb']
  split
  · simp_all
  · have h1 : i - 8 < 8 := by omega
    have h2 : 8 + (i - 8) = i := by omega
    simp [h1, h2]

theorem and_append_bytes (a b c d : Byte) : (a ++ b : Word) &&& (c ++ d : Word) = (a &&& c : Byte) ++ (b &&& d : Byte) := by
  apply BitVec.eq_of_getLsbD_eq
  intro i hi
  simp only [BitVec.getLsbD_and, getLsbD_append_bytes]
  split <;> rfl

end Sys2Proof
end

