-- ==== Sys2Proof/Laws/Decode.lean ====
section
/-!
SUPPORT. Laws/Decode.lean: the fields of an encoded command, one lemma a field and constructor.
-/

namespace Sys2Proof

@[simp] theorem opField_encode_init : opField (encode .init) = 1#4 := by decide
@[simp] theorem opField_encode_on : opField (encode .on) = 2#4 := by decide
@[simp] theorem opField_encode_off : opField (encode .off) = 3#4 := by decide
@[simp] theorem opField_encode_clear : opField (encode .clear) = 6#4 := by decide

@[simp] theorem opField_append_byte (a : Byte) (b : Byte) : opField (a ++ b : Word) = a.extractLsb' 4 4 := by
  ext i hi
  have h : ¬ 12 + i < 8 := by omega
  have h2 : 12 + i - 8 = 4 + i := by omega
  simp [opField, h, h2]

@[simp] theorem argField_append_byte (a : Byte) (b : Byte) : argField (a ++ b : Word) = b :=
  extractLsb'_low_append a b

theorem subField_append_byte (a : Byte) (b : Byte) : subField (a ++ b : Word) = a.extractLsb' 0 4 := by
  ext i hi
  simp [subField]

theorem placeField_append_byte (a : Byte) (b : Byte) : placeField (a ++ b : Word) = a.extractLsb' 0 3 := by
  ext i hi
  simp [placeField]

theorem encode_char (place : BitVec 3) (ch : Byte) :
    encode (.char place ch) = (0x7#4 ++ 0#1 ++ place : Byte) ++ ch := rfl

theorem encode_str (len : BitVec 4) : encode (.str len) = (0x8#4 ++ len : Byte) ++ 0x00#8 := rfl

@[simp] theorem opField_encode_char (place : BitVec 3) (ch : Byte) : opField (encode (.char place ch)) = 7#4 := by
  rw [encode_char, opField_append_byte]; revert place; decide

@[simp] theorem opField_encode_str (len : BitVec 4) : opField (encode (.str len)) = 8#4 := by
  rw [encode_str, opField_append_byte]; revert len; decide

@[simp] theorem placeField_encode_char (place : BitVec 3) (ch : Byte) :
    placeField (encode (.char place ch)) = place := by
  rw [encode_char, placeField_append_byte]; revert place; decide

@[simp] theorem argField_encode_char (place : BitVec 3) (ch : Byte) : argField (encode (.char place ch)) = ch := by
  rw [encode_char, argField_append_byte]

@[simp] theorem subField_encode_str (len : BitVec 4) : subField (encode (.str len)) = len := by
  rw [encode_str, subField_append_byte]; revert len; decide

end Sys2Proof
end

