-- ==== Sys2Proof/Laws/Flags.lean ====
section
/-!
SUPPORT. Laws/Flags.lean: the two `STATUS` bits the polling loops look at, as they stand in the word read.
-/

namespace Sys2Proof.Machine

theorem statusWord_busy (l : Lines) (st : Status) : (statusWord l st).getLsbD 0 = st.busy := by
  obtain ⟨b, i, o, r⟩ := st; obtain ⟨x, y, z⟩ := l
  revert b i o r x y z; decide

theorem statusWord_initDone (l : Lines) (st : Status) : (statusWord l st).getLsbD 1 = st.initDone := by
  obtain ⟨b, i, o, r⟩ := st; obtain ⟨x, y, z⟩ := l
  revert b i o r x y z; decide

theorem readStatus_busy (s : State) : (readReg .status s).getLsbD 0 = s.status.busy := statusWord_busy _ _

theorem readStatus_initDone (s : State) : (readReg .status s).getLsbD 1 = s.status.initDone :=
  statusWord_initDone _ _

end Sys2Proof.Machine
end

