-- ==== Sys2Proof/Laws/Frames.lean ====
section
/-!
SUPPORT. Laws/Frames.lean: frames as words and the fixed frame lists, so that no later proof unfolds them.
-/

namespace Sys2Proof.Machine

@[simp] theorem instrByte_frame (a b : Byte) : instrByte (frame a b) = a := extractLsb'_high_append a b

@[simp] theorem dataByte_frame (a b : Byte) : dataByte (frame a b) = b := extractLsb'_low_append a b

theorem frame_instrByte_dataByte (w : Word) : frame (instrByte w) (dataByte w) = w := append_extractLsb' w

@[simp] theorem stringFramesFrom_length (chars : List Byte) (n j : Nat) :
    (stringFramesFrom chars n j).length = j := by
  induction j with
  | zero => rfl
  | succ j ih => simp [stringFramesFrom, ih]

@[simp] theorem stringFrames_length (chars : List Byte) (n : Nat) : (stringFrames chars n).length = n := by
  simp [stringFrames]

/-- A space is below the table, so it is blank whatever the ROM (R180). -/
@[simp] theorem lookup_space : lookup 0x20#8 = 0x00#8 := by
  have h : romIndex 0x20#8 < 0 := by decide
  simp [lookup, lookupIn, h, blankPattern]

theorem clearFrames_eq : clearFrames =
    [0x0800#16, 0x0700#16, 0x0600#16, 0x0500#16, 0x0400#16, 0x0300#16, 0x0200#16, 0x0100#16] := by
  simp [clearFrames, stringFrames, stringFramesFrom, frame, regDigit]

theorem initFrames_eq : initFrames = [0x0F00#16, 0x0B07#16, 0x0A0F#16, 0x0C01#16] ++ clearFrames := rfl

@[simp] theorem clearFrames_length : clearFrames.length = 8 := by simp [clearFrames]

@[simp] theorem initFrames_length : initFrames.length = 12 := by simp [initFrames]

@[simp] theorem bufferChars_length (b : StrBuf) : (bufferChars b).length = 8 := rfl

@[simp] theorem regAt_addrOf (r : HostReg) : regAt (addrOf r) = r := by cases r <;> rfl

end Sys2Proof.Machine
end

