-- ==== Sys2Proof/Laws/State.lean ====
section
/-!
SUPPORT. Laws/State.lean: what each shared update does to each field of State, one lemma a field, so that no later
proof unfolds a record update.
-/

namespace Sys2Proof.Machine

section Drop
variable (s : State)

@[simp] theorem dropWrite_line : (dropWrite s).line = s.line := rfl
@[simp] theorem dropWrite_busy : (dropWrite s).status.busy = s.status.busy := rfl
@[simp] theorem dropWrite_initDone : (dropWrite s).status.initDone = s.status.initDone := rfl
@[simp] theorem dropWrite_ovr : (dropWrite s).status.ovr = true := rfl
@[simp] theorem dropWrite_result : (dropWrite s).status.result = s.status.result := rfl
@[simp] theorem dropWrite_str : (dropWrite s).str = s.str := rfl
@[simp] theorem dropWrite_lastFrame : (dropWrite s).lastFrame = s.lastFrame := rfl
@[simp] theorem dropWrite_shadow : (dropWrite s).shadow = s.shadow := rfl
@[simp] theorem dropWrite_seq : (dropWrite s).seq = s.seq := rfl
@[simp] theorem dropWrite_host : (dropWrite s).host = s.host := rfl

end Drop

section Reject
variable (c : BitVec 4) (s : State)

@[simp] theorem rejectCommand_line : (rejectCommand c s).line = s.line := rfl
@[simp] theorem rejectCommand_busy : (rejectCommand c s).status.busy = s.status.busy := rfl
@[simp] theorem rejectCommand_initDone : (rejectCommand c s).status.initDone = s.status.initDone := rfl
@[simp] theorem rejectCommand_ovr : (rejectCommand c s).status.ovr = s.status.ovr := rfl
@[simp] theorem rejectCommand_result : (rejectCommand c s).status.result = c := rfl
@[simp] theorem rejectCommand_str : (rejectCommand c s).str = s.str := rfl
@[simp] theorem rejectCommand_lastFrame : (rejectCommand c s).lastFrame = s.lastFrame := rfl
@[simp] theorem rejectCommand_shadow : (rejectCommand c s).shadow = s.shadow := rfl
@[simp] theorem rejectCommand_seq : (rejectCommand c s).seq = s.seq := rfl
@[simp] theorem rejectCommand_host : (rejectCommand c s).host = s.host := rfl

end Reject

section Accept
variable (b : Bool) (fs : List Word) (s : State)

@[simp] theorem acceptCommand_line : (acceptCommand b fs s).line = s.line := by cases fs <;> rfl
@[simp] theorem acceptCommand_busy : (acceptCommand b fs s).status.busy = (!fs.isEmpty || s.status.busy) := by
  cases fs <;> rfl
@[simp] theorem acceptCommand_initDone :
    (acceptCommand b fs s).status.initDone = (!b && s.status.initDone) := by cases fs <;> cases b <;> rfl
@[simp] theorem acceptCommand_ovr : (acceptCommand b fs s).status.ovr = s.status.ovr := by cases fs <;> rfl
@[simp] theorem acceptCommand_result : (acceptCommand b fs s).status.result = resultOk := by cases fs <;> rfl
@[simp] theorem acceptCommand_str : (acceptCommand b fs s).str = s.str := by cases fs <;> rfl
@[simp] theorem acceptCommand_lastFrame : (acceptCommand b fs s).lastFrame = s.lastFrame := by cases fs <;> rfl
@[simp] theorem acceptCommand_shadow : (acceptCommand b fs s).shadow = s.shadow := by cases fs <;> rfl
@[simp] theorem acceptCommand_host : (acceptCommand b fs s).host = s.host := by cases fs <;> rfl
@[simp] theorem acceptCommand_init : (acceptCommand b fs s).seq.init = b := by cases fs <;> rfl
@[simp] theorem acceptCommand_settle : (acceptCommand b fs s).seq.settle = s.seq.settle := by cases fs <;> rfl

theorem acceptCommand_nil : acceptCommand b [] s =
    { s with
      status := { s.status with result := resultOk, initDone := if b then false else s.status.initDone }
      seq := { s.seq with init := b } } := rfl

theorem acceptCommand_cons (w : Word) : acceptCommand b (w :: fs) s =
    { s with
      status := { s.status with result := resultOk, initDone := if b then false else s.status.initDone, busy := true }
      seq := { s.seq with mode := .run, fq := w :: fs, fi := 0, ms := 0, div := 0, init := b } } := rfl

end Accept

section Registers
variable (v : Word) (s : State)

@[simp] theorem writeStatus_line : (writeStatus v s).line = s.line := rfl
@[simp] theorem writeStatus_str : (writeStatus v s).str = s.str := rfl
@[simp] theorem writeStatus_lastFrame : (writeStatus v s).lastFrame = s.lastFrame := rfl
@[simp] theorem writeStatus_shadow : (writeStatus v s).shadow = s.shadow := rfl
@[simp] theorem writeStatus_seq : (writeStatus v s).seq = s.seq := rfl
@[simp] theorem writeStatus_host : (writeStatus v s).host = s.host := rfl
@[simp] theorem writeStatus_busy : (writeStatus v s).status.busy = s.status.busy := by
  unfold writeStatus statusAfterWrite; split <;> rfl
@[simp] theorem writeStatus_initDone : (writeStatus v s).status.initDone = s.status.initDone := by
  unfold writeStatus statusAfterWrite; split <;> rfl
@[simp] theorem writeStatus_result : (writeStatus v s).status.result = s.status.result := by
  unfold writeStatus statusAfterWrite; split <;> rfl

end Registers

section Sequencer
variable (w : Word) (ms : Nat) (s : State)

@[simp] theorem closeFrame_line : (closeFrame w s).line = s.line := rfl
@[simp] theorem closeFrame_status : (closeFrame w s).status = s.status := rfl
@[simp] theorem closeFrame_str : (closeFrame w s).str = s.str := rfl
@[simp] theorem closeFrame_lastFrame : (closeFrame w s).lastFrame = w := rfl
@[simp] theorem closeFrame_seq : (closeFrame w s).seq = s.seq := rfl
@[simp] theorem closeFrame_host : (closeFrame w s).host = s.host := rfl

@[simp] theorem microstep_line : (microstep w ms s).line = microstepLines w ms s.line := by
  unfold microstep; dsimp only; split <;> rfl
@[simp] theorem microstep_status : (microstep w ms s).status = s.status := by
  unfold microstep; dsimp only; split <;> rfl
@[simp] theorem microstep_str : (microstep w ms s).str = s.str := by
  unfold microstep; dsimp only; split <;> rfl
@[simp] theorem microstep_seq : (microstep w ms s).seq = s.seq := by
  unfold microstep; dsimp only; split <;> rfl
@[simp] theorem microstep_host : (microstep w ms s).host = s.host := by
  unfold microstep; dsimp only; split <;> rfl
theorem microstep_lastFrame : (microstep w ms s).lastFrame = if ms = 49 then w else s.lastFrame := by
  unfold microstep; dsimp only; split <;> rfl
theorem microstep_shadow : (microstep w ms s).shadow =
    if ms = 49 then shadowAfter (s.seq.init && decide (s.seq.fi = 3)) w s.shadow else s.shadow := by
  unfold microstep; dsimp only; split <;> rfl

@[simp] theorem finishInit_line : (finishInit s).line = s.line := rfl
@[simp] theorem finishInit_str : (finishInit s).str = s.str := rfl
@[simp] theorem finishInit_lastFrame : (finishInit s).lastFrame = s.lastFrame := rfl
@[simp] theorem finishInit_shadow : (finishInit s).shadow = s.shadow := rfl
@[simp] theorem finishInit_host : (finishInit s).host = s.host := rfl
@[simp] theorem finishInit_ovr : (finishInit s).status.ovr = s.status.ovr := rfl
@[simp] theorem finishInit_result : (finishInit s).status.result = s.status.result := rfl
@[simp] theorem finishInit_busy : (finishInit s).status.busy = false := rfl
@[simp] theorem finishInit_initDone : (finishInit s).status.initDone = true := rfl
@[simp] theorem finishInit_mode : (finishInit s).seq.mode = .idle := rfl
@[simp] theorem finishInit_init : (finishInit s).seq.init = false := rfl

@[simp] theorem endOfList_line : (endOfList s).line = s.line := by unfold endOfList; (repeat' split) <;> rfl
@[simp] theorem endOfList_str : (endOfList s).str = s.str := by unfold endOfList; (repeat' split) <;> rfl
@[simp] theorem endOfList_lastFrame : (endOfList s).lastFrame = s.lastFrame := by
  unfold endOfList; (repeat' split) <;> rfl
@[simp] theorem endOfList_shadow : (endOfList s).shadow = s.shadow := by unfold endOfList; (repeat' split) <;> rfl
@[simp] theorem endOfList_host : (endOfList s).host = s.host := by unfold endOfList; (repeat' split) <;> rfl
@[simp] theorem endOfList_ovr : (endOfList s).status.ovr = s.status.ovr := by unfold endOfList; (repeat' split) <;> rfl
@[simp] theorem endOfList_result : (endOfList s).status.result = s.status.result := by
  unfold endOfList; (repeat' split) <;> rfl
@[simp] theorem endOfList_fq : (endOfList s).seq.fq = s.seq.fq := by unfold endOfList; (repeat' split) <;> rfl
@[simp] theorem endOfList_fi : (endOfList s).seq.fi = s.seq.fi := by unfold endOfList; (repeat' split) <;> rfl
@[simp] theorem endOfList_ms : (endOfList s).seq.ms = s.seq.ms := by unfold endOfList; (repeat' split) <;> rfl
@[simp] theorem endOfList_div : (endOfList s).seq.div = s.seq.div := by unfold endOfList; (repeat' split) <;> rfl

@[simp] theorem advance_line : (advance s).line = s.line := by unfold advance; (repeat' split) <;> simp
@[simp] theorem advance_str : (advance s).str = s.str := by unfold advance; (repeat' split) <;> simp
@[simp] theorem advance_lastFrame : (advance s).lastFrame = s.lastFrame := by unfold advance; (repeat' split) <;> simp
@[simp] theorem advance_shadow : (advance s).shadow = s.shadow := by unfold advance; (repeat' split) <;> simp
@[simp] theorem advance_host : (advance s).host = s.host := by unfold advance; (repeat' split) <;> simp
@[simp] theorem advance_ovr : (advance s).status.ovr = s.status.ovr := by unfold advance; (repeat' split) <;> simp
@[simp] theorem advance_result : (advance s).status.result = s.status.result := by
  unfold advance; (repeat' split) <;> simp
@[simp] theorem advance_fq : (advance s).seq.fq = s.seq.fq := by unfold advance; (repeat' split) <;> simp
@[simp] theorem advance_div : (advance s).seq.div = s.seq.div := by unfold advance; (repeat' split) <;> simp

@[simp] theorem slotEnd_line : (slotEnd w s).line = microstepLines w s.seq.ms.val s.line := by simp [slotEnd]
@[simp] theorem slotEnd_str : (slotEnd w s).str = s.str := by simp [slotEnd]
@[simp] theorem slotEnd_host : (slotEnd w s).host = s.host := by simp [slotEnd]
@[simp] theorem slotEnd_ovr : (slotEnd w s).status.ovr = s.status.ovr := by simp [slotEnd]
@[simp] theorem slotEnd_result : (slotEnd w s).status.result = s.status.result := by simp [slotEnd]
@[simp] theorem slotEnd_fq : (slotEnd w s).seq.fq = s.seq.fq := by simp [slotEnd]
@[simp] theorem slotEnd_div : (slotEnd w s).seq.div = 0 := by simp [slotEnd]
theorem slotEnd_lastFrame :
    (slotEnd w s).lastFrame = if s.seq.ms.val = 49 then w else s.lastFrame := by
  simp [slotEnd, microstep_lastFrame]
theorem slotEnd_shadow : (slotEnd w s).shadow =
    if s.seq.ms.val = 49 then shadowAfter (s.seq.init && decide (s.seq.fi = 3)) w s.shadow else s.shadow := by
  simp [slotEnd, microstep_shadow]

@[simp] theorem settleEdge_line : (settleEdge s).line = s.line := by unfold settleEdge; split <;> rfl
@[simp] theorem settleEdge_str : (settleEdge s).str = s.str := by unfold settleEdge; split <;> rfl
@[simp] theorem settleEdge_lastFrame : (settleEdge s).lastFrame = s.lastFrame := by unfold settleEdge; split <;> rfl
@[simp] theorem settleEdge_shadow : (settleEdge s).shadow = s.shadow := by unfold settleEdge; split <;> rfl
@[simp] theorem settleEdge_host : (settleEdge s).host = s.host := by unfold settleEdge; split <;> rfl
@[simp] theorem settleEdge_ovr : (settleEdge s).status.ovr = s.status.ovr := by unfold settleEdge; split <;> rfl
@[simp] theorem settleEdge_result : (settleEdge s).status.result = s.status.result := by
  unfold settleEdge; split <;> rfl
@[simp] theorem settleEdge_fq : (settleEdge s).seq.fq = s.seq.fq := by unfold settleEdge; split <;> rfl

end Sequencer

end Sys2Proof.Machine
end

