-- ==== Sys2Proof/Laws/Ops.lean ====
section
/-!
SUPPORT. Laws/Ops.lean: what a command, a host access and the sequencer's step can do, said once each
(`hostEdge_change`, `seqEdge_change`), for the proofs to cite instead of unfolding the meanings.
-/

namespace Sys2Proof.Machine

theorem issueCommand_of_busy {ok b : Bool} {fs : List Word} {s : State} (h : s.status.busy = true) :
    issueCommand ok b fs s = dropWrite s := by simp [issueCommand, h]

theorem issueCommand_of_ok {b : Bool} {fs : List Word} {s : State} (h : s.status.busy = false) :
    issueCommand true b fs s = acceptCommand b fs s := by simp [issueCommand, h]

theorem issueCommand_of_not_ok {b : Bool} {fs : List Word} {s : State} (h : s.status.busy = false) :
    issueCommand false b fs s = rejectCommand errRange s := by simp [issueCommand, h]

/-- Every meaning is `issueCommand` at its row of the tables. -/
theorem exec_eq_issueCommand (i : Instr) (s : State) :
    exec i s = .next (issueCommand (inRange i) (isBringUp i) (framesOf s i) s) := by cases i <;> rfl

/-- All that the host's access can do to the state at one edge. -/
inductive HostChange (s : State) : State → Prop
  | same : HostChange s s
  | dropped (busy : s.status.busy = true) : HostChange s (dropWrite s)
  | rejected (idle : s.status.busy = false) (code : BitVec 4) (h : code = errRange ∨ code = errOpcode) :
      HostChange s (rejectCommand code s)
  | accepted (idle : s.status.busy = false) (i : Instr) (ok : inRange i = true) :
      HostChange s (acceptCommand (isBringUp i) (framesOf s i) s)
  | statusWritten (v : Word) : HostChange s (writeStatus v s)
  | bufferWritten (idle : s.status.busy = false) (b : StrBuf) : HostChange s { s with str := b }

theorem issueCommand_change (i : Instr) (s : State) :
    HostChange s (issueCommand (inRange i) (isBringUp i) (framesOf s i) s) := by
  cases hb : s.status.busy
  · cases hr : inRange i
    · rw [issueCommand_of_not_ok hb]; exact .rejected hb errRange (.inl rfl)
    · rw [issueCommand_of_ok hb]; exact .accepted hb i hr
  · rw [issueCommand_of_busy hb]; exact .dropped hb

theorem writeCmd_change (w : Word) (s : State) : ∃ t, writeCmd w s = .next t ∧ HostChange s t := by
  unfold writeCmd
  split
  · exact ⟨_, exec_eq_issueCommand _ s, issueCommand_change _ s⟩
  · refine ⟨_, rfl, ?_⟩
    unfold issueIllegal
    split
    · exact .dropped ‹_›
    · exact .rejected (eq_false_of_ne_true ‹_›) errOpcode (.inr rfl)

theorem writeBuffer_change (b : StrBuf) (s : State) : HostChange s (writeBuffer b s) := by
  unfold writeBuffer
  split
  · exact .dropped ‹_›
  · exact .bufferWritten (eq_false_of_ne_true ‹_›) b

/-- The host's access always answers a next state, and it is one of these. -/
theorem hostEdge_change (p : PortIn) (s : State) : ∃ t, hostEdge p s = .next t ∧ HostChange s t := by
  unfold hostEdge
  split
  · cases h : regAt p.hAddr
    case cmd => simpa [writeReg] using writeCmd_change p.hWdata s
    case status => exact ⟨_, rfl, .statusWritten _⟩
    case lastFrame => exact ⟨_, rfl, .same⟩
    case shadow => exact ⟨_, rfl, .same⟩
    all_goals exact ⟨_, rfl, writeBuffer_change _ s⟩
  · exact ⟨s, rfl, .same⟩

theorem HostChange.host_eq {s t : State} (h : HostChange s t) : t.host = s.host := by cases h <;> simp

/-- All that the sequencer can do to the state at one edge. -/
inductive SeqChange (mode : SeqMode) (s : State) : State → Prop
  | still (m : mode = .idle) : SeqChange mode s s
  | counted (m : mode = .run) (h : s.seq.div < Config.spiDiv - 1) :
      SeqChange mode s { s with seq := { s.seq with div := s.seq.div + 1 } }
  | slotEnded (m : mode = .run) (h : ¬ s.seq.div < Config.spiDiv - 1) (w : Word)
      (hw : s.seq.fq[s.seq.fi]? = some w) : SeqChange mode s (slotEnd w s)
  | settled (m : mode = .settle) : SeqChange mode s (settleEdge s)

theorem seqEdge_change {mode : SeqMode} {s t : State} (h : seqEdge mode s = .next t) : SeqChange mode s t := by
  cases mode with
  | idle => cases h; exact .still rfl
  | settle => cases h; exact .settled rfl
  | run =>
    simp only [seqEdge, runEdge] at h
    split at h
    · cases h; exact .counted rfl ‹_›
    · split at h
      · cases h; exact .slotEnded rfl ‹_› _ ‹_›
      · cases h

/-- The sequencer stops only in `RUN` at a frame index outside the list. -/
theorem seqEdge_next {mode : SeqMode} {s : State} (h : mode = .run → s.seq.fi < s.seq.fq.length) :
    ∃ t, seqEdge mode s = .next t := by
  cases mode with
  | idle => exact ⟨s, rfl⟩
  | settle => exact ⟨_, rfl⟩
  | run =>
    simp only [seqEdge, runEdge]
    split
    · exact ⟨_, rfl⟩
    · rw [List.getElem?_eq_getElem (h rfl)]; exact ⟨_, rfl⟩

/-- The four ways `advance` ends a slot (R133, R134). -/
theorem advance_cases (s : State) :
    (∃ h : s.seq.ms.val < 49, advance s = { s with seq := { s.seq with ms := ⟨s.seq.ms.val + 1, by omega⟩ } })
    ∨ (s.seq.ms.val = 49 ∧ s.seq.fi < s.seq.fq.length - 1
        ∧ advance s = { s with seq := { s.seq with ms := 0, fi := s.seq.fi + 1 } })
    ∨ (s.seq.ms.val = 49 ∧ ¬ s.seq.fi < s.seq.fq.length - 1
        ∧ advance s = endOfList { s with seq := { s.seq with ms := 0 } }) := by
  have hms := s.seq.ms.isLt
  by_cases h : s.seq.ms.val < 49
  · exact .inl ⟨h, by simp [advance, h]⟩
  · by_cases h2 : s.seq.fi < s.seq.fq.length - 1
    · exact .inr (.inl ⟨by omega, h2, by simp [advance, h, h2]⟩)
    · exact .inr (.inr ⟨by omega, h2, by simp [advance, h, h2]⟩)

/-- The three ways a frame list ends (R134). -/
theorem endOfList_cases (s : State) :
    (s.seq.init = true ∧ 0 < Config.settleCycles
        ∧ endOfList s = { s with seq := { s.seq with mode := .settle, settle := 0 } })
    ∨ (s.seq.init = true ∧ Config.settleCycles = 0 ∧ endOfList s = finishInit s)
    ∨ (s.seq.init = false
        ∧ endOfList s = { s with status := { s.status with busy := false }, seq := { s.seq with mode := .idle } }) := by
  cases h : s.seq.init
  · exact .inr (.inr ⟨rfl, by simp [endOfList, h]⟩)
  · by_cases h2 : 0 < Config.settleCycles
    · exact .inl ⟨rfl, h2, by simp [endOfList, h, h2]⟩
    · exact .inr (.inl ⟨rfl, by omega, by simp [endOfList, h, h2]⟩)

end Sys2Proof.Machine
end

