-- ==== Sys2Proof/Laws/PerInstr.lean ====
section
/-!
SUPPORT. Laws/PerInstr.lean: facts that hold of every command, one lemma a constructor.
-/

/-- Every term fits its fields (30_encoding.md R82). -/
def Sys2Proof.Laws.OperandsFit.Statement (i : Sys2Proof.Instr) : Prop := i.wellFormed = true

namespace Sys2Proof.Laws.OperandsFit

theorem init : Statement .init := rfl
theorem on : Statement .on := rfl
theorem off : Statement .off := rfl
theorem bright (value : Byte) : Statement (.bright value) := by
  have := value.isLt; simp [Statement, Instr.wellFormed]; omega
theorem scan (limit : Byte) : Statement (.scan limit) := by
  have := limit.isLt; simp [Statement, Instr.wellFormed]; omega
theorem clear : Statement .clear := rfl
theorem char (place : BitVec 3) (ch : Byte) : Statement (.char place ch) := by
  have := place.isLt; have := ch.isLt; simp [Statement, Instr.wellFormed]; omega
theorem str (len : BitVec 4) : Statement (.str len) := by
  have := len.isLt; simp [Statement, Instr.wellFormed]; omega

end Sys2Proof.Laws.OperandsFit

/-- The encoder writes 0 in every bit the command does not use (30_encoding.md R84). -/
def Sys2Proof.Laws.UnusedZero.Statement (i : Sys2Proof.Instr) : Prop :=
  Sys2Proof.encode i &&& Sys2Proof.usedBits i = Sys2Proof.encode i

namespace Sys2Proof.Laws.UnusedZero

theorem byteMask (a b : Byte) : (a ++ b : Word) &&& (0xF0#8 ++ 0xFF#8 : Word) = (a &&& 0xF0#8 : Byte) ++ b := by
  rw [and_append_bytes, show b &&& 0xFF#8 = b from BitVec.and_allOnes]

theorem init : Statement .init := by unfold Statement; decide
theorem on : Statement .on := by unfold Statement; decide
theorem off : Statement .off := by unfold Statement; decide
theorem bright (value : Byte) : Statement (.bright value) := byteMask 0x40#8 value
theorem scan (limit : Byte) : Statement (.scan limit) := byteMask 0x50#8 limit
theorem clear : Statement .clear := by unfold Statement; decide
theorem char (place : BitVec 3) (ch : Byte) : Statement (.char place ch) := by
  have h : (0x7#4 ++ 0#1 ++ place : Byte) &&& 0xF7#8 = 0x7#4 ++ 0#1 ++ place := by revert place; decide
  show ((0x7#4 ++ 0#1 ++ place : Byte) ++ ch : Word) &&& (0xF7#8 ++ 0xFF#8 : Word) = _
  rw [and_append_bytes, h, show ch &&& 0xFF#8 = ch from BitVec.and_allOnes]; rfl
theorem str (len : BitVec 4) : Statement (.str len) := by unfold Statement; revert len; decide

end Sys2Proof.Laws.UnusedZero
end

