-- ==== Sys2Proof/Laws/Step.lean ====
section
/-!
SUPPORT. Laws/Step.lean: what one step can do, said once: a reset, or a host access followed by the sequencer's step.
-/

namespace Sys2Proof.Machine

/-- If a step answers next, it was a reset edge, or the host's access (one of `HostChange`) and then the sequencer's
step (one of `SeqChange`) by the mode at the start of the cycle. -/
theorem step_cases {s t : State} (h : step s = .next t) :
    ((hostDrive s).rst = true ∧ t = resetEdge (hostRest s))
    ∨ ((hostDrive s).rst = false ∧ ∃ u, hostEdge (hostDrive s) { s with host := hostRest s } = .next u
        ∧ HostChange { s with host := hostRest s } u ∧ SeqChange s.seq.mode u t) := by
  unfold step clockEdge at h
  split at h
  · cases h; exact .inl ⟨‹_›, rfl⟩
  · obtain ⟨u, hu, hc⟩ := hostEdge_change (hostDrive s) { s with host := hostRest s }
    rw [hu] at h
    exact .inr ⟨eq_false_of_ne_true ‹_›, u, hu, hc, seqEdge_change h⟩

/-- Without a reset, a step is the sequencer's step after the host's access. -/
theorem step_eq_seqEdge {s u : State} (hr : (hostDrive s).rst = false)
    (hu : hostEdge (hostDrive s) { s with host := hostRest s } = .next u) : step s = seqEdge s.seq.mode u := by
  simp [step, clockEdge, hr, hu]

end Sys2Proof.Machine
end

