-- ==== Sys2Proof/Laws/Run.lean ====
section
/-!
SUPPORT. Laws/Run.lean: runs of several edges cut in two, scripts without a reset, and the one thing a host can do to a
busy block.
-/

namespace Sys2Proof.Machine

theorem after_add (m n : Nat) (s : State) : after (m + n) s = (after m s).bind (after n) := by
  induction m generalizing s with
  | zero => simp [after]
  | succ m ih =>
    rw [Nat.succ_add]
    simp only [after]
    split
    · exact ih _
    · rfl
    · rfl

theorem wireTrace_add {m : Nat} {s t : State} (n : Nat) (h : after m s = some t) :
    wireTrace (m + n) s = wireTrace m s ++ wireTrace n t := by
  induction m generalizing s with
  | zero => simp only [after, Option.some.injEq] at h; subst h; simp [wireTrace]
  | succ m ih =>
    rw [Nat.succ_add]
    simp only [after] at h
    simp only [wireTrace]
    split at h
    · rw [ih h]; split <;> rfl
    · cases h
    · cases h

theorem after_one {s t : State} (h : step s = .next t) : after 1 s = some t := by simp [after, h]

theorem hostDrive_of_resetFree {s : State} (h : resetFree s.host = true) : (hostDrive s).rst = false := by
  unfold hostDrive
  split
  · rfl
  · rename_i p rest e; rw [e] at h; simp [resetFree, HostOp.resets] at h; exact h.1
  · rfl
  · rfl

theorem resetFree_hostRest {s : State} (h : resetFree s.host = true) : resetFree (hostRest s) = true := by
  unfold hostRest
  split <;> rename_i e
  · rfl
  · rw [e] at h; simp [resetFree] at h ⊢; exact h.2
  · rw [e] at h; split
    · exact h
    · simp [resetFree] at h ⊢; exact h.2
  · rw [e] at h; split
    · exact h
    · simp [resetFree] at h ⊢; exact h.2

/-- While `BUSY` = 1 the host's access changes at most `OVR` (R223, R57, R58). -/
theorem hostEdge_of_busy (p : PortIn) {s : State} (h : s.status.busy = true) :
    ∃ o, hostEdge p s = .next { s with status := { s.status with ovr := o } } := by
  obtain ⟨t, ht, hc⟩ := hostEdge_change p s
  cases hc with
  | same => exact ⟨s.status.ovr, ht⟩
  | dropped => exact ⟨true, ht⟩
  | rejected idle => simp [h] at idle
  | accepted idle => simp [h] at idle
  | bufferWritten idle => simp [h] at idle
  | statusWritten v =>
    rw [ht]
    unfold writeStatus statusAfterWrite
    split
    · exact ⟨false, rfl⟩
    · exact ⟨s.status.ovr, rfl⟩

/-- A step of a busy block without a reset is the sequencer's step; the host shows only in its script and in `OVR`. -/
theorem step_of_busy {s : State} (h : s.status.busy = true) (hr : (hostDrive s).rst = false) :
    ∃ o, step s = seqEdge s.seq.mode
      { s with host := hostRest s, status := { s.status with ovr := o } } := by
  obtain ⟨o, ho⟩ := hostEdge_of_busy (hostDrive s) (s := { s with host := hostRest s }) h
  exact ⟨o, step_eq_seqEdge hr ho⟩

theorem microstepDue_run {s : State} (hr : (hostDrive s).rst = false) (hm : s.seq.mode = .run) :
    microstepDue s = !decide (s.seq.div < Config.spiDiv - 1) := by simp [microstepDue, hr, hm]

theorem wireTrace_one_due {s t : State} (h : step s = .next t) (d : microstepDue s = true) :
    wireTrace 1 s = [t.line] := by simp [wireTrace, h, d]

theorem wireTrace_one_still {s t : State} (h : step s = .next t) (d : microstepDue s = false) :
    wireTrace 1 s = [] := by simp [wireTrace, h, d]

theorem spiDiv_pos : 0 < Config.spiDiv := Nat.succ_pos _

end Sys2Proof.Machine
end

