-- ==== Sys2Proof/Machine/HostScript.lean ====
section
/-!
DEFINITION. Machine/HostScript.lean: the host-script notation (30_encoding.md R88, R89) as operations of the host
agent, so that the spec's programs are lists.
-/

namespace Sys2Proof.Machine

/-- `WR <reg>, #v` (R88). -/
def wr (r : HostReg) (v : Word) : HostOp := .cycle (writePort r v)

/-- `RD <reg>` (R88); the value read is `hRdata` in that cycle. -/
def rd (r : HostReg) : HostOp := .cycle (readPort r)

/-- A cycle without an access. -/
def pause : HostOp := .cycle quietPort

/-- A cycle with `rst` = 1 (R250). -/
def resetCycle : HostOp := .cycle { quietPort with rst := true }

/-- A command mnemonic: one write of its word to `CMD`; `none` is the assembly error (R88). -/
def command (a : AsmCmd) : Option HostOp := (asmWord a).map (wr .cmd)

/-- `CLROVR` (R89). -/
def clrOvr : HostOp := wr .status 0x0004#16

/-- `CMD <mnemonic>`: `WAITIDLE`, then the mnemonic (R89). -/
def cmdWhenIdle (a : AsmCmd) : Option (List HostOp) := (command a).map fun op => [.waitIdle, op]

/-- `{hi,lo}` of two characters, the lower-numbered one in the low byte (R27, R89). -/
def charPair (t : List Byte) (k : Nat) : Word := t.getD (2 * k + 1) 0x00#8 ++ t.getD (2 * k) 0x00#8

/-- `PUTS "t"` for at most eight characters; more is not defined (R89). -/
def puts (t : List Byte) : Option (List HostOp) :=
  if t.length ≤ 8 then
    (command (.str t.length)).map fun op =>
      [.waitIdle, wr .str01 (charPair t 0), wr .str23 (charPair t 1), wr .str45 (charPair t 2),
       wr .str67 (charPair t 3), op]
  else none

/-- The host's truncation of a longer string, before it writes the buffer (R203; log 9). -/
def truncateWith (how : HostTruncation) (t : List Byte) : List Byte :=
  match how with
  | .keepFirst8 => t.take 8
  | .keepLast8 => t.drop (t.length - 8)

/-- `setString` of a string of any length, as a host performs it: truncate, then `PUTS` (R203). -/
def putsTruncated (t : List Byte) : Option (List HostOp) := puts (truncateWith Config.hostTruncation t)

end Sys2Proof.Machine
end

