-- ==== Sys2Proof/Tests/Slice0.lean ====
section
/-!
SUPPORT. Tests/Slice0.lean: small tests of the model against the spec's own vectors (95_test_vectors.md; each test names
its vector or rule), the smoke tests of WellFormed, and a witness for each statement that has hypotheses.
-/

namespace Sys2Proof.Tests

open Sys2Proof Sys2Proof.Machine

/-! ## Well-formedness: each check refuses an ill-formed operand (R88) -/

theorem test_bright_256_is_ill_formed : AsmCmd.wellFormed (.bright 256) = false := by decide
theorem test_scan_256_is_ill_formed : AsmCmd.wellFormed (.scan 256) = false := by decide
theorem test_char_place_8_is_ill_formed : AsmCmd.wellFormed (.char 8 0x41) = false := by decide
theorem test_char_code_256_is_ill_formed : AsmCmd.wellFormed (.char 7 256) = false := by decide
theorem test_str_16_is_ill_formed : AsmCmd.wellFormed (.str 16) = false := by decide
theorem test_ill_formed_has_no_word : asmWord (.str 16) = none ∧ assemble (.char 8 0) = none := by decide
theorem test_out_of_range_still_encodes : AsmCmd.wellFormed (.bright 255) = true ∧ AsmCmd.wellFormed (.str 9) = true := by
  decide

/-! ## Decoding: words written out from the bit patterns of R87 -/

theorem test_decode_init : decode 0b0001111111111111#16 = some .init := by decide   -- V3, 0x1FFF
theorem test_decode_on : decode 0b0010000011111111#16 = some .on := by decide       -- R90, 0x20FF
theorem test_decode_off : decode 0b0011000000000000#16 = some .off := by decide     -- V3
theorem test_decode_bright : decode 0b0100111100000101#16 = some (.bright 5#8) := by decide   -- V3, 0x4F05
theorem test_decode_scan : decode 0b0101000010000000#16 = some (.scan 0x80#8) := by decide    -- V3, 0x5080
theorem test_decode_clear : decode 0b0110000000000000#16 = some .clear := by decide -- V5.1
theorem test_decode_char : decode 0b0111111101000001#16 = some (.char 7#3 0x41#8) := by decide -- V5.2, 0x7F41
theorem test_decode_str : decode 0b1000010111111111#16 = some (.str 5#4) := by decide -- V5.3, 0x85FF
theorem test_decode_illegal : decode 0x0000#16 = none ∧ decode 0x9000#16 = none ∧ decode 0xF123#16 = none := by decide
theorem test_encode_words : encode (.char 3#3 0x48#8) = 0x7348#16 ∧ encode (.str 9#4) = 0x8900#16
    ∧ encode (.bright 15#8) = 0x400F#16 ∧ encode (.scan 7#8) = 0x5007#16 := by decide      -- R90
theorem test_table_words : decodeTableWord 16 0x7000 = some (.char 0#3 0#8) ∧ decodeTableWord 16 0x1000 = some .init := by
  decide

/-! ## The lookup: V4, size 51, with a ROM whose entry `i` is `i + 1` -/

/-- A ROM in which every entry is told apart. -/
def countingRom (i : Nat) : Byte := BitVec.ofNat 8 (i + 1)

theorem test_lookup_edges : lookupIn 51 countingRom 0x2C#8 = 0#8 ∧ lookupIn 51 countingRom 0x2D#8 = 1#8
    ∧ lookupIn 51 countingRom 0x5F#8 = 51#8 ∧ lookupIn 51 countingRom 0x60#8 = 0#8 := by decide
theorem test_lookup_case : lookupIn 51 countingRom 0x61#8 = 21#8 ∧ lookupIn 51 countingRom 0x7A#8 = 46#8
    ∧ lookupIn 51 countingRom 0x7B#8 = 0#8 ∧ lookupIn 51 countingRom 0xE1#8 = 0#8 := by decide
theorem test_lookup_size_52 : lookupIn 52 countingRom 0x60#8 = 52#8 := by decide

/-! ## Commands and host accesses from the post-boot state (R256) -/

/-- `Sboot`, the state of R256. -/
def ready : State where
  line := { cs := true, clk := false, din := false }
  status := { busy := false, initDone := true, ovr := false, result := 0#4 }
  str := { str01 := 0#16, str23 := 0#16, str45 := 0#16, str67 := 0#16 }
  lastFrame := 0x0100#16
  shadow := { intensity := 15#4, scanLimit := 7#3, normalOp := true, test := false, known := true }
  seq := { mode := .idle, fq := initFrames, fi := 11, ms := 0, div := 0, settle := 0, init := false }
  host := []

/-- The state after one step in which the host does `op`, from `s`. -/
def oneStep (op : HostOp) (s : State) : Option State :=
  match step { s with host := [op] } with
  | .next t => some t
  | .fault _ => none
  | .refused _ => none

/-- What `STATUS` reads after one step in which the host writes `w` to `CMD`. -/
def statusAfterCmd (w : Word) : Option Word := (oneStep (wr .cmd w) ready).map (readReg .status)

/-- The frame list after one step in which the host writes `w` to `CMD`. -/
def framesAfterCmd (w : Word) : Option (List Word) := (oneStep (wr .cmd w) ready).map fun t => t.seq.fq

theorem test_ready_reads : readReg .status ready = 0x0102#16 ∧ readReg .shadow ready = 0x80FF#16 := by decide  -- R256
theorem test_reset_reads : readReg .status State.reset = 0x0101#16 ∧ readReg .shadow State.reset = 0#16 := by decide -- V7.1

theorem test_init_status : statusAfterCmd 0x1000#16 = some 0x0101#16 := by decide     -- V3.1
theorem test_init_frames : framesAfterCmd 0x1FFF#16 = some [0x0F00#16, 0x0B07#16, 0x0A0F#16, 0x0C01#16, 0x0800#16,
    0x0700#16, 0x0600#16, 0x0500#16, 0x0400#16, 0x0300#16, 0x0200#16, 0x0100#16] := by decide  -- V1.7
theorem test_on_frame : framesAfterCmd 0x2000#16 = some [0x0C01#16] := by decide      -- V1.6
theorem test_off_frame : framesAfterCmd 0x3000#16 = some [0x0C00#16] := by decide     -- V1.6
theorem test_bright_frame : framesAfterCmd 0x4F05#16 = some [0x0A05#16] := by decide  -- V3
theorem test_bright_16_rejected : statusAfterCmd 0x4010#16 = some 0x0112#16 := by decide   -- V3
theorem test_scan_frame : framesAfterCmd 0x5007#16 = some [0x0B07#16] := by decide    -- V3
theorem test_scan_8_rejected : statusAfterCmd 0x5008#16 = some 0x0112#16 := by decide -- V3
theorem test_clear_frames : framesAfterCmd 0x6000#16 = some [0x0800#16, 0x0700#16, 0x0600#16, 0x0500#16, 0x0400#16,
    0x0300#16, 0x0200#16, 0x0100#16] := by decide                                     -- V5.1
theorem test_char_blank_frame : framesAfterCmd 0x7207#16 = some [0x0300#16] := by decide   -- V5.2
theorem test_str_0_completes : statusAfterCmd 0x8000#16 = some 0x0102#16 := by decide -- V5.3
theorem test_str_9_rejected : statusAfterCmd 0x8900#16 = some 0x0112#16 := by decide  -- V5.3
theorem test_illegal_rejected : statusAfterCmd 0xF123#16 = some 0x0122#16 ∧ statusAfterCmd 0x0000#16 = some 0x0122#16 := by
  decide                                                                              -- V6

/-- The buffer of V5.4: "a1 " and zeros. -/
def spaced : State := { ready with str := { ready.str with str01 := 0x3161#16, str23 := 0x0020#16 } }

theorem test_str_sends_the_space : (oneStep (wr .cmd 0x8300#16) spaced).map (fun t => t.seq.fq.head?)
    = some (some 0x0800#16) := by decide                                              -- V5.4

/-- A block in the middle of `CLEAR`. -/
def clearing : State :=
  { ready with
    status := { ready.status with busy := true }
    seq := { ready.seq with mode := .run, fq := clearFrames, fi := 0 } }

theorem test_busy_drops_illegal : writeCmd 0xF000#16 clearing = .next { clearing with
    status := { clearing.status with ovr := true } } := rfl                           -- V6
theorem test_busy_drops_buffer : writeReg .str01 0x4141#16 clearing = .next { clearing with
    status := { clearing.status with ovr := true } } := rfl                           -- V6

/-- `Sboot` with `OVR` = 1. -/
def overrun : State := { ready with status := { ready.status with ovr := true } }

theorem test_w1c_needs_bit_2 : (oneStep (wr .status 0xFFFB#16) overrun).map (readReg .status) = some 0x0106#16 := by
  decide                                                                              -- V6
theorem test_w1c_clears : (oneStep clrOvr overrun).map (readReg .status) = some 0x0102#16 := by decide   -- V6
theorem test_readonly_ignored : oneStep (wr .shadow 0x0000#16) ready = some ready
    ∧ oneStep (wr .lastFrame 0x1234#16) ready = some ready := by decide               -- V6
theorem test_buffer_write : (oneStep (wr .str23 0x4C4C#16) ready).map (readReg .str23) = some 0x4C4C#16 := by decide
theorem test_reset_wins : oneStep (.cycle { rst := true, hWe := true, hAddr := 0#3, hWdata := 0x6000#16 }) clearing
    = some State.reset := by decide                                                   -- V7.5, R229
theorem test_host_waits : (oneStep .waitIdle ready).map (fun t => t.host) = some [] := by decide

/-! ## The frame primitive: V2.1, the trace of 0x0C01 from idle levels -/

/-- Idle levels with `DIN` = 0. -/
def idleLines : Lines := { cs := true, clk := false, din := false }

theorem test_trace_0C01 :
    (frameTrace 0x0C01#16 idleLines)[0]? = some { cs := false, clk := false, din := false }
    ∧ (frameTrace 0x0C01#16 idleLines)[11]? = some { cs := false, clk := true, din := false }
    ∧ (frameTrace 0x0C01#16 idleLines)[13]? = some { cs := false, clk := false, din := true }
    ∧ (frameTrace 0x0C01#16 idleLines)[19]? = some { cs := false, clk := false, din := false }
    ∧ (frameTrace 0x0C01#16 idleLines)[48]? = some { cs := false, clk := false, din := true }
    ∧ (frameTrace 0x0C01#16 idleLines)[49]? = some { cs := true, clk := false, din := true } := by decide
theorem test_samples_0B07 : samples idleLines (frameTrace 0x0B07#16 idleLines) =
    [false, false, false, false, true, false, true, true, false, false, false, false, false, true, true, true] := by
  decide                                                                              -- V2.2

/-- `ON`'s frame before its last micro-step, in the last cycle of the slot. -/
def closing : State :=
  { ready with
    line := { cs := false, clk := false, din := true }
    status := { ready.status with busy := true }
    shadow := { ready.shadow with normalOp := false }
    seq := { mode := .run, fq := [0x0C01#16], fi := 0, ms := 49, div := Config.spiDiv - 1, settle := 0, init := false } }

theorem test_close_on : readReg .status (slotEnd 0x0C01#16 closing) = 0x0502#16
    ∧ readReg .shadow (slotEnd 0x0C01#16 closing) = 0x80FF#16
    ∧ readReg .lastFrame (slotEnd 0x0C01#16 closing) = 0x0C01#16 := by decide         -- V3
theorem test_known_at_fourth : (shadowAfter true 0x0C01#16 State.reset.shadow).known = true
    ∧ (shadowAfter false 0x0A0F#16 State.reset.shadow).known = false := by decide     -- R107

/-! ## The host script -/

theorem test_puts_hello : puts [0x48#8, 0x45#8, 0x4C#8, 0x4C#8, 0x4F#8] = some
    [.waitIdle, wr .str01 0x4548#16, wr .str23 0x4C4C#16, wr .str45 0x004F#16, wr .str67 0x0000#16, wr .cmd 0x8500#16] := by
  decide                                                                              -- P1
theorem test_puts_nine_undefined : puts (List.replicate 9 0x41#8) = none := by decide -- R89
theorem test_truncations : truncateWith .keepFirst8 ((List.range 10).map (BitVec.ofNat 8)) = (List.range 8).map (BitVec.ofNat 8)
    ∧ (truncateWith .keepLast8 ((List.range 10).map (BitVec.ofNat 8))).head? = some 2#8 := by decide   -- D19

/-! ## Running a command word as the very next step -/

theorem test_fetch_on : step (State.reset.withFetchWord 16 0x2000)
    = exec .on { State.reset with
        status := { State.reset.status with busy := false }, seq := { State.reset.seq with mode := .idle } } := rfl

/-! ## Witnesses: for each statement with hypotheses, a state and operands that meet them all -/

/-- A frame of `ON` with the first eight bits sent, in `RUN`. -/
def sending : State :=
  { ready with
    line := { cs := false, clk := false, din := false }
    status := { ready.status with busy := true }
    seq := { mode := .run, fq := [0x0C01#16], fi := 0, ms := 25, div := 0, settle := 0, init := false } }

/-- The start of `ON`'s frame. -/
def starting : State := { sending with line := idleLines, seq := { sending.seq with ms := 0 } }

/-- The bring-up before its very last micro-step. -/
def endingBringUp : State :=
  { ready with
    line := { cs := false, clk := false, din := false }
    status := { ready.status with busy := true, initDone := false }
    seq := { mode := .run, fq := initFrames, fi := 11, ms := 49, div := Config.spiDiv - 1, settle := 0, init := true } }

/-- `ready` with a host that writes `w` to `CMD` and then polls. -/
def commanded (w : Word) : State :=
  { ready with host := [.cycle { rst := false, hWe := true, hAddr := 0#3, hWdata := w }, .waitIdle] }

theorem sending_control : ControlInv sending where
  busy_iff := by decide
  list_length := by decide
  frame_index := by decide
  div_bound := spiDiv_pos
  settle_bound := Nat.zero_le _
  settle_init := by intro h; cases h
  idle_init := by decide
  init_done := by decide
  result_code := by decide
  busy_result := by decide

theorem sending_lines : LineInv sending where
  still_ms := by decide
  cs_level := by decide
  clk_level := by decide
  din_level := by
    intro w _ _ h
    have : w = 0x0C01#16 := by simpa [sending] using h.symm
    subst this; decide

theorem sending_wire : WireInv sending where
  queue_legal := by decide
  last_legal := .inr (by decide)
  test_off := rfl

theorem sending_bringUp : BringUpInv sending where
  bringUp_list := by decide
  known_in_run := by decide
  known_in_settle := by decide
  known_when_done := by decide

theorem sending_steps : ∃ t, step sending = .next t := by
  show ∃ t, seqEdge .run sending = .next t
  exact seqEdge_next (by decide)

theorem witness_StepNeverStops : ControlInv sending := sending_control

/-- The witness of the four statements `StepKeeps…`. -/
theorem witness_StepKeepsInvariants : ∃ s t, ControlInv s ∧ LineInv s ∧ WireInv s ∧ BringUpInv s ∧ step s = .next t := by
  obtain ⟨t, h⟩ := sending_steps
  exact ⟨sending, t, sending_control, sending_lines, sending_wire, sending_bringUp, h⟩

theorem witness_DecodeAndEncodeAgree : Instr.wellFormed (.char 7#3 0xFF#8) = true
    ∧ decode 0x7FFF#16 = some (.char 7#3 0xFF#8) := by decide

theorem witness_UnusedCommandBitsAreIgnored : decode 0x7041#16 = some (.char 0#3 0x41#8)
    ∧ 0x7841#16 &&& usedBits (.char 0#3 0x41#8) = 0x7041#16 &&& usedBits (.char 0#3 0x41#8) := by decide

theorem witness_StepRunsTheDecodedCommand : (commanded 0x2000#16).host =
    .cycle { rst := false, hWe := true, hAddr := 0#3, hWdata := 0x2000#16 } :: [.waitIdle]
    ∧ decode 0x2000#16 = some .on ∧ (commanded 0x2000#16).seq.mode = .idle := ⟨rfl, by decide, rfl⟩

theorem witness_CommandWriteHasOneOutcome : ready.status.busy = false ∧ clearing.status.busy = true ∧ decode 0x0FFF#16 = none
    ∧ decode 0x4010#16 = some (.bright 16#8) ∧ inRange (.bright 16#8) = false
    ∧ decode 0x400F#16 = some (.bright 15#8) ∧ inRange (.bright 15#8) = true := by decide

theorem witness_AcceptingACommand : ready.status.busy = false ∧ inRange (.str 0#4) = true ∧ framesOf ready (.str 0#4) = []
    ∧ inRange (.str 8#4) = true ∧ framesOf ready (.str 8#4) ≠ [] := by decide

theorem witness_WorkedEncodingsDecode : ready.status.busy = false := rfl
theorem witness_InitExecutes : ready.status.busy = false := rfl
theorem witness_OnAndOffExecute : ready.status.busy = false := rfl
theorem witness_ClearExecutes : ready.status.busy = false := rfl
theorem witness_CharExecutes : ready.status.busy = false := rfl
theorem witness_BrightExecutes : ready.status.busy = false ∧ (15#8).toNat ≤ 15 ∧ 15 < (16#8).toNat := by decide
theorem witness_ScanExecutes : ready.status.busy = false ∧ (7#8).toNat ≤ 7 ∧ 7 < (8#8).toNat := by decide
theorem witness_StrExecutes : ready.status.busy = false ∧ (1 ≤ (8#4).toNat ∧ (8#4).toNat ≤ 8) ∧ (0#4).toNat = 0
    ∧ 8 < (9#4).toNat := by decide

theorem witness_RejectionChangesOnlyResult : ready.status.busy = false
    ∧ writeCmd 0x4010#16 ready = .next (rejectCommand 1#4 ready) ∧ (rejectCommand 1#4 ready).status.result = 1#4 :=
  ⟨rfl, rfl, rfl⟩

theorem witness_IllegalOpcodesReportErrOpcode : ready.status.busy = false ∧ (0x0FFF#16).extractLsb' 12 4 = 0#4
    ∧ 9 ≤ ((0x9000#16).extractLsb' 12 4).toNat := by decide

theorem witness_BusyDropsCommandAndBufferWrites : sending.status.busy = true ∧ (writePort .cmd 0#16).hWe = true
    ∧ (writePort .cmd 0#16).hAddr = 0#3 ∧ 2 ≤ (writePort .str01 0#16).hAddr.toNat
    ∧ (writePort .str67 0#16).hAddr.toNat ≤ 5 ∧ ControlInv sending :=
  ⟨rfl, rfl, rfl, by decide, by decide, sending_control⟩

theorem witness_OverrunFlag_falls : ∃ t, step { overrun with host := [clrOvr] } = .next t
    ∧ overrun.status.ovr = true ∧ t.status.ovr = false := ⟨_, rfl, rfl, rfl⟩

theorem witness_OverrunFlag_rises : ∃ t, step { sending with host := [wr .cmd 0x2000#16] } = .next t
    ∧ sending.status.ovr = false ∧ t.status.ovr = true := by
  obtain ⟨t, h⟩ := seqEdge_next (mode := .run) (s := dropWrite sending) (by decide)
  exact ⟨t, h, rfl, by cases seqEdge_change h <;> simp⟩

theorem witness_StatusWriteClearsOverrun : (0x0004#16).getLsbD 2 = true ∧ (0xFFFB#16).getLsbD 2 = false := by decide
theorem witness_StringBufferWrites : ready.status.busy = false ∧ clearing.status.busy = true ∧ 2 ≤ (2#3).toNat
    ∧ (5#3).toNat ≤ 5 := by decide

theorem witness_ReadsChangeNoState :
    ({ ready with host := [rd .status] } : State).host =
        .cycle { rst := false, hWe := false, hAddr := 1#3, hWdata := 0#16 } :: []
    ∧ ({ ready with host := [.waitIdle] } : State).host = .waitIdle :: []
    ∧ ({ ready with host := [.waitInit] } : State).host = .waitInit :: [] := ⟨rfl, rfl, rfl⟩

theorem witness_FrameTraceDecodesToTheFrame : idleLines.cs = true ∧ idleLines.clk = false
    ∧ (List.replicate 16 true).length = 16 := by decide

theorem witness_MicrostepTakesOneSlot : sending.seq.mode = .run ∧ sending.status.busy = true ∧ sending.seq.div = 0
    ∧ sending.seq.fq[sending.seq.fi]? = some 0x0C01#16 ∧ resetFree sending.host = true := by decide

theorem witness_FrameGoesOutWhole : clearing.seq.mode = .run ∧ clearing.status.busy = true ∧ clearing.seq.ms.val = 0
    ∧ clearing.seq.div = 0 ∧ clearing.seq.fq[clearing.seq.fi]? = some 0x0800#16 ∧ resetFree clearing.host = true
    ∧ clearing.seq.fi + 1 < clearing.seq.fq.length := by decide

theorem witness_CommandFramesGoOutInOrder : (commanded 0x1000#16).status.busy = false
    ∧ (commanded 0x1000#16).seq.mode = .idle ∧ (commanded 0x1000#16).line.cs = true
    ∧ (commanded 0x1000#16).line.clk = false
    ∧ (commanded 0x1000#16).host = .cycle { rst := false, hWe := true, hAddr := 0#3, hWdata := 0x1000#16 } :: [.waitIdle]
    ∧ resetFree [.waitIdle] = true ∧ decode 0x1000#16 = some .init ∧ inRange .init = true
    ∧ decode 0x6000#16 = some .clear ∧ inRange .clear = true := by decide

/-- The form without a frame: `STR` with length 0 (R131). -/
theorem witness_CommandFramesGoOutInOrder_emptyString : (commanded 0x8000#16).status.busy = false
    ∧ (commanded 0x8000#16).seq.mode = .idle ∧ (commanded 0x8000#16).line.cs = true
    ∧ (commanded 0x8000#16).line.clk = false
    ∧ (commanded 0x8000#16).host = .cycle { rst := false, hWe := true, hAddr := 0#3, hWdata := 0x8000#16 } :: [.waitIdle]
    ∧ resetFree [.waitIdle] = true ∧ decode 0x8000#16 = some (.str 0#4) ∧ inRange (.str 0#4) = true
    ∧ framesOf (commanded 0x8000#16) (.str 0#4) = [] := by decide

theorem witness_SingleFrameCommandsComplete (i : Instr) : (commanded (encode i)).status.busy = false
    ∧ (commanded (encode i)).seq.mode = .idle ∧ (commanded (encode i)).line.cs = true
    ∧ (commanded (encode i)).line.clk = false
    ∧ (commanded (encode i)).host =
        .cycle { rst := false, hWe := true, hAddr := 0#3, hWdata := encode i } :: [.waitIdle]
    ∧ resetFree [.waitIdle] = true ∧ (15#8).toNat ≤ 15 ∧ (7#8).toNat ≤ 7 :=
  ⟨rfl, rfl, rfl, rfl, rfl, rfl, by decide, by decide⟩

theorem witness_BootReachesTheReadyState : resetFree [rd .status, wr .cmd 0x2000#16] = true
    ∧ resetFree [.waitInit] = true ∧ writeFree [.waitInit] = true := by decide

theorem witness_OnThenOffSendTwoFrames : ∃ s : State, s.status.busy = false ∧ s.seq.mode = .idle ∧ s.line.cs = true
    ∧ s.line.clk = false
    ∧ s.host = [.cycle { rst := false, hWe := true, hAddr := 0#3, hWdata := 0x2000#16 }, .waitIdle,
        .cycle { rst := false, hWe := true, hAddr := 0#3, hWdata := 0x3000#16 }] :=
  ⟨{ ready with host := _ }, rfl, rfl, rfl, rfl, rfl⟩

theorem witness_ClosingAFrameRecordsIt : closing.seq.ms.val = 49 := by decide

theorem witness_BringUpEndsAfterTheSettleDelay : endingBringUp.seq.mode = .run ∧ endingBringUp.status.busy = true
    ∧ endingBringUp.seq.init = true ∧ endingBringUp.seq.ms.val = 49 ∧ endingBringUp.seq.div = Config.spiDiv - 1
    ∧ endingBringUp.seq.fq[endingBringUp.seq.fi]? = some 0x0100#16
    ∧ endingBringUp.seq.fi + 1 = endingBringUp.seq.fq.length ∧ endingBringUp.line.clk = false
    ∧ resetFree endingBringUp.host = true := ⟨rfl, rfl, rfl, rfl, rfl, by decide, by decide, rfl, rfl⟩

theorem witness_WriteAtTheFallOfBusyIsDropped : ∃ s : State, s.seq.mode = .run ∧ s.status.busy = true
    ∧ s.seq.init = false ∧ s.seq.ms.val = 49 ∧ s.seq.div = Config.spiDiv - 1 ∧ s.seq.fq[s.seq.fi]? = some 0x0C01#16
    ∧ s.seq.fi + 1 = s.seq.fq.length
    ∧ s.host = .cycle { rst := false, hWe := true, hAddr := 0#3, hWdata := 0x2000#16 } :: [] :=
  ⟨{ closing with host := _ }, rfl, rfl, rfl, rfl, rfl, rfl, rfl, rfl⟩

theorem witness_IdleBlockHoldsTheLines : ∃ t, ready.seq.mode = .idle ∧ (hostDrive ready).rst = false
    ∧ step ready = .next t ∧ (hostDrive ready).hWe = false := ⟨_, rfl, rfl, rfl, rfl⟩

theorem witness_HostCannotDisturbARunningCommand : ∃ t₁ t₂, sending.status.busy = true
    ∧ resetFree [wr .cmd 0x2000#16] = true ∧ resetFree [.waitIdle] = true
    ∧ step { sending with host := [wr .cmd 0x2000#16] } = .next t₁
    ∧ step { sending with host := [.waitIdle] } = .next t₂ := by
  obtain ⟨t₁, h₁⟩ := seqEdge_next (mode := .run) (s := dropWrite sending) (by decide)
  obtain ⟨t₂, h₂⟩ := seqEdge_next (mode := .run) (s := { sending with host := [.waitIdle] }) (by decide)
  exact ⟨t₁, t₂, rfl, rfl, rfl, h₁, h₂⟩

theorem witness_HostAndSequencerWriteSeparateState :
    (∃ t, hostEdge (writePort .cmd 0x1000#16) ready = .next t) ∧ (∃ t, hostEdge quietPort sending = .next t)
    ∧ (∃ t, seqEdge .settle endingBringUp = .next t) := ⟨⟨_, rfl⟩, ⟨_, rfl⟩, ⟨_, rfl⟩⟩

theorem witness_ResetEdgeRestoresEverything : ∃ (s : State) (p : PortIn) (rest : List HostOp),
    s.host = .cycle p :: rest ∧ p.rst = true := ⟨{ ready with host := [resetCycle] }, _, _, rfl, rfl⟩

theorem witness_LookupFollowsTheTable : (0x2C#8).toNat < 45 ∧ 45 + 51 ≤ (0x60#8).toNat ∧ 45 ≤ (0x2D#8).toNat
    ∧ (0x5F#8).toNat < 45 + 51 ∧ 0x61 ≤ (0x61#8).toNat ∧ (0x7A#8).toNat ≤ 0x7A := by decide

theorem witness_LookupIgnoresCase : 0 < 26 ∧ 25 < 26 := by decide

theorem witness_LookupPartition : 51 ≤ 51 ∧ 51 ≤ 77 ∧ (0x2C#8).toNat ≤ 0x2C ∧ (0x2D#8).toNat ≤ 0x5F
    ∧ 0x61 ≤ (0x61#8).toNat ∧ (0x7A#8).toNat ≤ 0x7A ∧ 0x7B ≤ (0x7B#8).toNat := by decide

theorem witness_StringFramePlacement : 8 ≤ 8 ∧ 7 < 8 ∧ 0 < 1 := by decide
theorem witness_StringEqualsItsCharacters : (8#4).toNat ≤ 8 := by decide
theorem witness_StringBufferPacking : 0 < 4 ∧ 3 < 4 := by decide

theorem witness_StringLeavesOtherPlacesAlone : 1 ≤ 8 ∧ 0x0800#16 ∈ stringFrames [0x20#8] 1 := by decide

theorem witness_HelloFrames : ∃ s : State, s.status.busy = false
    ∧ s.str = { str01 := 0x4548#16, str23 := 0x4C4C#16, str45 := 0x004F#16, str67 := 0x0000#16 } :=
  ⟨{ ready with str := _ }, rfl, rfl⟩

end Sys2Proof.Tests
end

section
/-!
The block never stops (00_scope.md R19, 60_exceptions.md R227). The sequencer's one fault needs a frame index outside
the list in `RUN`; there the block is busy, and the host's access of the same edge leaves a busy block's sequencer alone.
-/

namespace Sys2Proof.Machine

/-- An edge with `rst` = 1 answers the reset state, whatever the host writes in that cycle (R250). -/
theorem step_of_rst {s : State} (hr : (hostDrive s).rst = true) : step s = .next (resetEdge (hostRest s)) := by
  simp [step, clockEdge, hr]

/-- While `BUSY` = 1 no host access reaches the sequencer (R223): only an accepted command would, and none is. -/
theorem HostChange.seq_eq_of_busy {s u : State} (hc : HostChange s u) (hb : s.status.busy = true) :
    u.seq = s.seq := by
  cases hc with
  | same => rfl
  | dropped => exact dropWrite_seq s
  | rejected => exact rejectCommand_seq _ s
  | accepted idle => simp [hb] at idle
  | statusWritten v => exact writeStatus_seq v s
  | bufferWritten => rfl

/-- In `RUN` the block is busy (R26, R30). -/
theorem ControlInv.busy_of_run {s : State} (hs : ControlInv s) (hrun : s.seq.mode = .run) : s.status.busy = true :=
  hs.busy_iff.mpr (by simp [hrun])

/-- After the host's access the frame index of a running sequencer still names a frame. -/
theorem ControlInv.frame_index_after_hostChange {s u : State} {rest : List HostOp} (hs : ControlInv s)
    (hc : HostChange { s with host := rest } u) (hrun : s.seq.mode = .run) : u.seq.fi < u.seq.fq.length := by
  have hseq : u.seq = s.seq := hc.seq_eq_of_busy (hs.busy_of_run hrun)
  rw [hseq]
  exact hs.frame_index hrun

/-- Settles O53: a reset edge answers next; on any other edge the host's access does, and then the sequencer's step,
whose frame index the access has left in the list. -/
theorem stepNeverStops : Obligations.StepNeverStops := by
  intro s hs
  by_cases hr : (hostDrive s).rst = true
  · exact ⟨_, step_of_rst hr⟩
  · obtain ⟨u, hu, hc⟩ := hostEdge_change (hostDrive s) { s with host := hostRest s }
    rw [step_eq_seqEdge (eq_false_of_ne_true hr) hu]
    exact seqEdge_next (hs.frame_index_after_hostChange hc)

end Sys2Proof.Machine
end

section
/-!
What ends a slot, as full next states: a micro-step inside the frame, or the closing `CS` rise and then the next frame
or the end of the list (40_spi_bitbang.md R103, R107; 41_control_commands.md R133, R134).
-/

namespace Sys2Proof.Machine

/-- The block at the closing edge of frame `w`, before the sequencer's position moves on (R107). -/
def frameClosed (w : Word) (s : State) : State :=
  { s with
    line := { s.line with cs := true }
    lastFrame := w
    shadow := shadowAfter (s.seq.init && decide (s.seq.fi = 3)) w s.shadow
    seq := { s.seq with ms := 0, div := 0 } }

/-- The start of the frame after `w` in the list. -/
def nextFrame (w : Word) (s : State) : State :=
  { frameClosed w s with seq := { s.seq with ms := 0, div := 0, fi := s.seq.fi + 1 } }

theorem slotEnd_inside (w : Word) {s : State} (h : s.seq.ms.val < 49) :
    slotEnd w s =
      { s with
        line := microstepLines w s.seq.ms.val s.line
        seq := { s.seq with ms := ⟨s.seq.ms.val + 1, by omega⟩, div := 0 } } := by
  have hne : s.seq.ms.val ≠ 49 := by omega
  simp [slotEnd, microstep, advance, h, hne]

theorem slotEnd_next (w : Word) {s : State} (h : s.seq.ms.val = 49) (hfi : s.seq.fi + 1 < s.seq.fq.length) :
    slotEnd w s = nextFrame w s := by
  have hlt : s.seq.fi < s.seq.fq.length - 1 := by omega
  simp [slotEnd, microstep, microstepLines, closeFrame, advance, nextFrame, frameClosed, h, hlt]

theorem slotEnd_last (w : Word) {s : State} (h : s.seq.ms.val = 49) (hfi : ¬ s.seq.fi + 1 < s.seq.fq.length) :
    slotEnd w s = endOfList (frameClosed w s) := by
  have hge : ¬ s.seq.fi < s.seq.fq.length - 1 := by omega
  simp [slotEnd, microstep, microstepLines, closeFrame, advance, frameClosed, h, hge]

end Sys2Proof.Machine
end

section
/-!
The control invariant: each shared operation keeps it, so the host's access and the sequencer's step do, and with them
a step (10_state.md R26, R30, R31).
-/

namespace Sys2Proof.Machine

variable {s t u : State}

theorem inRange_framesOf_length {i : Instr} (h : inRange i = true) : (framesOf s i).length ≤ 12 := by
  cases i with
  | str n =>
    have hn : n.toNat ≤ 8 := by simpa [inRange] using h
    simp [framesOf]; omega
  | _ => simp [framesOf, onFrames, offFrames, brightFrames, scanFrames, charFrames]

/-- Only `INIT` is a bring-up, and its list is not empty (R131, R141). -/
theorem isBringUp_eq_false_of_no_frames {i : Instr} (h : framesOf s i = []) : isBringUp i = false := by
  cases i with
  | init => simp [framesOf, initFrames] at h
  | _ => rfl

theorem controlInv_resetEdge (rest : List HostOp) : ControlInv (resetEdge rest) where
  busy_iff := by simp [resetEdge, State.reset]
  list_length := by simp [resetEdge, State.reset]
  frame_index := by simp [resetEdge, State.reset]
  div_bound := spiDiv_pos
  settle_bound := Nat.zero_le _
  settle_init := by simp [resetEdge, State.reset]
  idle_init := by simp [resetEdge, State.reset]
  init_done := by simp [resetEdge, State.reset]
  result_code := by simp [resetEdge, State.reset]
  busy_result := by simp [resetEdge, State.reset, resultOk]

/-- The host's script is no part of the invariant. -/
theorem ControlInv.withHost (hs : ControlInv s) (rest : List HostOp) : ControlInv { s with host := rest } := { hs with }

theorem ControlInv.idle_of_not_busy (hs : ControlInv s) (h : s.status.busy = false) : s.seq.mode = .idle := by
  by_contra hm
  simp [hs.busy_iff.mpr hm] at h

theorem ControlInv.rejectCommand (hs : ControlInv s) (idle : s.status.busy = false) {code : BitVec 4}
    (hcode : code.toNat ≤ 2) : ControlInv (rejectCommand code s) :=
  { hs with
    result_code := hcode
    busy_result := by simp [idle] }

theorem ControlInv.acceptCommand (hs : ControlInv s) (idle : s.status.busy = false) {i : Instr}
    (ok : inRange i = true) : ControlInv (acceptCommand (isBringUp i) (framesOf s i) s) := by
  have hlen : (framesOf s i).length ≤ 12 := inRange_framesOf_length ok
  cases hfs : framesOf s i with
  | nil =>
    rw [isBringUp_eq_false_of_no_frames hfs, acceptCommand_nil]
    have hmode : s.seq.mode = .idle := hs.idle_of_not_busy idle
    exact { hs with
      settle_init := by simp [hmode]
      idle_init := by simp
      init_done := by simp
      result_code := by simp [resultOk]
      busy_result := by simp }
  | cons w fs =>
    rw [hfs] at hlen
    rw [acceptCommand_cons]
    exact { hs with
      busy_iff := by simp
      list_length := hlen
      frame_index := by simp
      div_bound := spiDiv_pos
      settle_init := by simp
      idle_init := by simp
      init_done := fun hb => if_pos hb
      result_code := by simp [resultOk]
      busy_result := by simp }

theorem ControlInv.writeStatus (hs : ControlInv s) (v : Word) : ControlInv (writeStatus v s) := by
  unfold Machine.writeStatus statusAfterWrite
  split
  · exact { hs with }
  · exact hs

/-- The host's access keeps the control invariant. -/
theorem ControlInv.hostChange (hs : ControlInv s) (hc : HostChange s u) : ControlInv u := by
  cases hc with
  | same => exact hs
  | dropped => exact { hs with }
  | rejected idle code hcode => exact hs.rejectCommand idle (by rcases hcode with rfl | rfl <;> decide)
  | accepted idle i ok => exact hs.acceptCommand idle ok
  | statusWritten v => exact hs.writeStatus v
  | bufferWritten => exact { hs with }

theorem ControlInv.finishInit (hs : ControlInv s) : ControlInv (finishInit s) :=
  { hs with
    busy_iff := by simp
    frame_index := by simp
    settle_init := by simp
    idle_init := by simp
    init_done := by simp
    busy_result := by simp }

theorem ControlInv.endOfList (hs : ControlInv s) (hrun : s.seq.mode = .run) : ControlInv (endOfList s) := by
  rcases endOfList_cases s with ⟨hinit, hset, e⟩ | ⟨-, -, e⟩ | ⟨hinit, e⟩ <;> rw [e]
  · exact { hs with
      busy_iff := by simp [hs.busy_of_run hrun]
      frame_index := by simp
      settle_bound := Nat.zero_le _
      settle_init := by simp [hinit, hset]
      idle_init := by simp }
  · exact hs.finishInit
  · exact { hs with
      busy_iff := by simp
      frame_index := by simp
      settle_init := by simp
      idle_init := by simp [hinit]
      busy_result := by simp }

theorem ControlInv.slotEnd (hs : ControlInv s) (hrun : s.seq.mode = .run) (w : Word) : ControlInv (slotEnd w s) := by
  have hclosed : ControlInv (frameClosed w s) := { hs with div_bound := spiDiv_pos }
  have hms := s.seq.ms.isLt
  by_cases h : s.seq.ms.val < 49
  · rw [slotEnd_inside w h]
    exact { hs with div_bound := spiDiv_pos }
  · by_cases hfi : s.seq.fi + 1 < s.seq.fq.length
    · rw [slotEnd_next w (by omega) hfi]
      exact { hclosed with frame_index := fun _ => hfi }
    · rw [slotEnd_last w (by omega) hfi]
      exact hclosed.endOfList hrun

theorem ControlInv.settleEdge (hs : ControlInv s) (hset : s.seq.mode = .settle) : ControlInv (settleEdge s) := by
  obtain ⟨hinit, hlt⟩ := hs.settle_init hset
  unfold Machine.settleEdge
  split
  · exact { hs with
      settle_bound := by simp; omega
      settle_init := by simp [hinit]; omega }
  · exact hs.finishInit

/-- The sequencer's step, taken by the mode the state holds, keeps the control invariant. -/
theorem ControlInv.seqChange (hs : ControlInv s) (hq : SeqChange s.seq.mode s t) : ControlInv t := by
  cases hq with
  | still => exact hs
  | counted _ h => exact { hs with div_bound := by simp; omega }
  | slotEnded hrun _ w => exact hs.slotEnd hrun w
  | settled hset => exact hs.settleEdge hset

/-- `step_cases` in a state of the control invariant: after the host's access nothing more happens, because the cycle
began idle, or the sequencer steps by the mode it still has, because a busy block's sequencer is out of reach (R223). -/
theorem ControlInv.step_cases (hs : ControlInv s) (h : step s = .next t) :
    t = resetEdge (hostRest s)
    ∨ ∃ u, HostChange { s with host := hostRest s } u ∧ (t = u ∨ SeqChange u.seq.mode u t) := by
  obtain ⟨-, rfl⟩ | ⟨-, u, -, hc, hq⟩ := Machine.step_cases h
  · exact .inl rfl
  · refine .inr ⟨u, hc, ?_⟩
    cases hb : s.status.busy with
    | false =>
      rw [hs.idle_of_not_busy hb] at hq
      cases hq with
      | still => exact .inl rfl
      | counted m => cases m
      | slotEnded m => cases m
      | settled m => cases m
    | true =>
      have hseq : u.seq = s.seq := hc.seq_eq_of_busy hb
      exact .inr (hseq ▸ hq)

/-- Settles O48: the host's access keeps the invariant, and then the sequencer's step does. -/
theorem stepKeepsControlInv : Obligations.StepKeepsControlInv := by
  intro s t hs h
  obtain rfl | ⟨u, hc, hq⟩ := hs.step_cases h
  · exact controlInv_resetEdge _
  · have hu : ControlInv u := (hs.withHost _).hostChange hc
    obtain rfl | hq := hq
    · exact hu
    · exact hu.seqChange hq

end Sys2Proof.Machine
end

section
/-!
Every frame a command lists is legal, and a legal frame that closes leaves display test off (40_spi_bitbang.md R104;
41_control_commands.md R132; 10_state.md R29).
-/

namespace Sys2Proof.Machine

variable {s t u : State}

theorem legalFrame_digit {place : Nat} (h : place ≤ 7) (b : Byte) : legalFrame (frame (regDigit place) b) = true := by
  have hn : (regDigit place).toNat = place + 1 := by simp [regDigit]; omega
  simp [legalFrame, hn]; omega

theorem stringFramesFrom_legal (chars : List Byte) {n : Nat} (hn : n ≤ 8) {j : Nat} (hj : j ≤ n) :
    (stringFramesFrom chars n j).all legalFrame = true := by
  induction j with
  | zero => rfl
  | succ j ih =>
    have hplace : 8 - n + j ≤ 7 := by omega
    simp only [stringFramesFrom, List.all_cons, Bool.and_eq_true]
    exact ⟨legalFrame_digit hplace _, ih (by omega)⟩

theorem stringFrames_legal (chars : List Byte) {n : Nat} (hn : n ≤ 8) :
    (stringFrames chars n).all legalFrame = true := stringFramesFrom_legal chars hn le_rfl

theorem clearFrames_legal : clearFrames.all legalFrame = true := stringFrames_legal _ le_rfl

theorem initFrames_legal : initFrames.all legalFrame = true := by
  rw [initFrames_eq, List.all_append, clearFrames_legal]; decide

/-- An accepted command's operand is in range, so its frames are legal (R105, R132). -/
theorem framesOf_legal {i : Instr} (ok : inRange i = true) : (framesOf s i).all legalFrame = true := by
  cases i with
  | init => exact initFrames_legal
  | on => simp only [framesOf]; decide
  | off => simp only [framesOf]; decide
  | bright v =>
    have hv : v.toNat ≤ 15 := by simpa [inRange] using ok
    simp [framesOf, brightFrames, legalFrame, regIntensity, hv]
  | scan l =>
    have hl : l.toNat ≤ 7 := by simpa [inRange] using ok
    simp [framesOf, scanFrames, legalFrame, regScanLimit, hl]
  | clear => exact clearFrames_legal
  | char p c =>
    have hp : p.toNat ≤ 7 := by omega
    simp [framesOf, charFrames, legalFrame_digit hp]
  | str n =>
    have hn : n.toNat ≤ 8 := by simpa [inRange] using ok
    exact stringFrames_legal _ hn

/-- A legal frame to the display-test register carries 0. -/
theorem legalFrame_dispTest {w : Word} (h : legalFrame w = true) (hi : instrByte w = regDispTest) :
    dataByte w = 0x00#8 := by
  simpa [legalFrame, hi, regDispTest] using h

theorem shadowAfter_test_off {w : Word} (h : legalFrame w = true) (fourth : Bool) {sh : Shadow}
    (hsh : sh.test = false) : (shadowAfter fourth w sh).test = false := by
  simp only [shadowAfter]
  split
  · rw [legalFrame_dispTest h ‹_›]; rfl
  · exact hsh

theorem wireInv_resetEdge (rest : List HostOp) : WireInv (resetEdge rest) where
  queue_legal := initFrames_legal
  last_legal := .inl rfl
  test_off := rfl

theorem WireInv.withHost (hs : WireInv s) (rest : List HostOp) : WireInv { s with host := rest } := { hs with }

theorem acceptCommand_fq (b : Bool) (fs : List Word) (s : State) :
    (acceptCommand b fs s).seq.fq = if fs.isEmpty then s.seq.fq else fs := by cases fs <;> rfl

/-- The host's access leaves the frame list, or loads that of a command in range. -/
theorem WireInv.hostChange (hs : WireInv s) (hc : HostChange s u) : WireInv u := by
  cases hc with
  | same => exact hs
  | dropped => exact { hs with }
  | rejected => exact { hs with }
  | accepted _ i ok =>
    exact {
      queue_legal := by
        rw [acceptCommand_fq]
        split
        · exact hs.queue_legal
        · exact framesOf_legal ok
      last_legal := by simpa using hs.last_legal
      test_off := by simpa using hs.test_off }
  | statusWritten => exact { hs with }
  | bufferWritten => exact { hs with }

/-- A frame that goes out is one of the list. -/
theorem WireInv.slotEnd (hs : WireInv s) {w : Word} (hw : s.seq.fq[s.seq.fi]? = some w) : WireInv (slotEnd w s) := by
  have hlegal : legalFrame w = true := List.all_eq_true.mp hs.queue_legal w (List.mem_of_getElem? hw)
  exact {
    queue_legal := by simpa using hs.queue_legal
    last_legal := by
      rw [slotEnd_lastFrame]
      split
      · exact .inr hlegal
      · exact hs.last_legal
    test_off := by
      rw [slotEnd_shadow]
      split
      · exact shadowAfter_test_off hlegal _ hs.test_off
      · exact hs.test_off }

theorem WireInv.seqChange {mode : SeqMode} (hs : WireInv s) (hq : SeqChange mode s t) : WireInv t := by
  cases hq with
  | still => exact hs
  | counted => exact { hs with }
  | slotEnded _ _ w hw => exact hs.slotEnd hw
  | settled =>
    exact {
      queue_legal := by simpa using hs.queue_legal
      last_legal := by simpa using hs.last_legal
      test_off := by simpa using hs.test_off }

/-- Settles O50: the host's access keeps the invariant, and then the sequencer's step does. -/
theorem stepKeepsWireInv : Obligations.StepKeepsWireInv := by
  intro s t hs h
  obtain ⟨-, rfl⟩ | ⟨-, u, -, hc, hq⟩ := step_cases h
  · exact wireInv_resetEdge _
  · exact ((hs.withHost _).hostChange hc).seqChange hq

end Sys2Proof.Machine
end

section
/-!
The course of a bring-up: its twelve frames are `INIT_FRAMES`, and the fourth sets `KNOWN`, so that `KNOWN` is set when
the list ends and when `INIT_DONE` rises (10_state.md R29; 40_spi_bitbang.md R107; 41_control_commands.md R134, R141).
-/

namespace Sys2Proof.Machine

variable {s t u : State}

theorem bringUpInv_resetEdge (rest : List HostOp) : BringUpInv (resetEdge rest) where
  bringUp_list := fun _ => rfl
  known_in_run := by simp [resetEdge, State.reset]
  known_in_settle := by simp [resetEdge, State.reset]
  known_when_done := by simp [resetEdge, State.reset]

theorem BringUpInv.withHost (hs : BringUpInv s) (rest : List HostOp) : BringUpInv { s with host := rest } := { hs with }

theorem isBringUp_eq_true_iff {i : Instr} : isBringUp i = true ↔ i = .init := by cases i <;> simp [isBringUp]

/-- An accepted command starts at frame 0, and only `INIT` is a bring-up, with its own list and `INIT_DONE` 0. -/
theorem BringUpInv.acceptCommand (hs : BringUpInv s) (i : Instr) :
    BringUpInv (acceptCommand (isBringUp i) (framesOf s i) s) := by
  have hdone : s.status.initDone = true → s.shadow.known = true := hs.known_when_done
  cases hfs : framesOf s i with
  | nil =>
    rw [isBringUp_eq_false_of_no_frames hfs, acceptCommand_nil]
    exact { hs with
      bringUp_list := by simp
      known_in_run := by simp
      known_when_done := by simpa using hdone }
  | cons w fs =>
    rw [acceptCommand_cons]
    exact {
      bringUp_list := fun hb => by
        obtain rfl := isBringUp_eq_true_iff.mp hb
        exact hfs.symm
      known_in_run := by simp
      known_in_settle := by simp
      known_when_done := fun h => by
        dsimp only at h
        split at h
        · cases h
        · exact hdone h }

theorem BringUpInv.hostChange (hs : BringUpInv s) (hc : HostChange s u) : BringUpInv u := by
  cases hc with
  | same => exact hs
  | dropped => exact { hs with }
  | rejected => exact { hs with }
  | accepted _ i => exact hs.acceptCommand i
  | statusWritten v => exact { hs with known_when_done := by simpa using hs.known_when_done }
  | bufferWritten => exact { hs with }

/-- `KNOWN` set, the end of a bring-up may set `INIT_DONE`. -/
theorem BringUpInv.finishInit (hknown : s.shadow.known = true) : BringUpInv (finishInit s) where
  bringUp_list := by simp
  known_in_run := by simp
  known_in_settle := by simp
  known_when_done := fun _ => hknown

theorem BringUpInv.endOfList (hs : BringUpInv s) (hlast : s.seq.init = true → s.shadow.known = true) :
    BringUpInv (endOfList s) := by
  rcases endOfList_cases s with ⟨hinit, -, e⟩ | ⟨hinit, -, e⟩ | ⟨hinit, e⟩ <;> rw [e]
  · exact { hs with
      known_in_run := by simp
      known_in_settle := fun _ => hlast hinit }
  · exact finishInit (hlast hinit)
  · exact { hs with
      known_in_run := by simp
      known_in_settle := by simp }

/-- `KNOWN` never falls when a frame closes (R107). -/
theorem frameClosed_known (w : Word) (s : State) :
    (frameClosed w s).shadow.known = true ↔ (s.seq.init = true ∧ s.seq.fi = 3) ∨ s.shadow.known = true := by
  by_cases h : s.seq.init = true ∧ s.seq.fi = 3 <;> simp [frameClosed, shadowAfter, h]

/-- In a bring-up `KNOWN` is set once a frame of index 3 or above has closed. -/
theorem BringUpInv.known_after_close (hs : BringUpInv s) (hrun : s.seq.mode = .run) (hinit : s.seq.init = true)
    (hfi : 3 ≤ s.seq.fi) (w : Word) : (frameClosed w s).shadow.known = true := by
  rw [frameClosed_known]
  rcases Nat.eq_or_lt_of_le hfi with h3 | h3
  · exact .inl ⟨hinit, h3.symm⟩
  · exact .inr (hs.known_in_run hinit hrun h3)

theorem BringUpInv.frameClosed (hs : BringUpInv s) (w : Word) : BringUpInv (frameClosed w s) :=
  { hs with
    known_in_run := fun hinit hrun hfi => hs.known_after_close hrun hinit (Nat.le_of_lt hfi) w
    known_in_settle := fun h => (frameClosed_known w s).mpr (.inr (hs.known_in_settle h))
    known_when_done := fun h => (frameClosed_known w s).mpr (.inr (hs.known_when_done h)) }

theorem BringUpInv.slotEnd (hs : BringUpInv s) (hrun : s.seq.mode = .run) (w : Word) : BringUpInv (slotEnd w s) := by
  have hms := s.seq.ms.isLt
  by_cases h : s.seq.ms.val < 49
  · rw [slotEnd_inside w h]
    exact { hs with }
  · by_cases hfi : s.seq.fi + 1 < s.seq.fq.length
    · rw [slotEnd_next w (by omega) hfi]
      exact { hs.frameClosed w with
        known_in_run := fun hinit _ h3 => hs.known_after_close hrun hinit (Nat.lt_succ_iff.mp h3) w }
    · rw [slotEnd_last w (by omega) hfi]
      refine (hs.frameClosed w).endOfList fun hinit => hs.known_after_close hrun hinit ?_ w
      rw [hs.bringUp_list hinit, initFrames_length] at hfi
      omega

theorem BringUpInv.settleEdge (hs : BringUpInv s) (hset : s.seq.mode = .settle) : BringUpInv (settleEdge s) := by
  unfold Machine.settleEdge
  split
  · exact { hs with }
  · exact finishInit (hs.known_in_settle hset)

theorem BringUpInv.seqChange (hs : BringUpInv s) (hq : SeqChange s.seq.mode s t) : BringUpInv t := by
  cases hq with
  | still => exact hs
  | counted => exact { hs with }
  | slotEnded hrun _ w => exact hs.slotEnd hrun w
  | settled hset => exact hs.settleEdge hset

/-- Settles O51: the host's access keeps the invariant, and then the sequencer's step does. -/
theorem stepKeepsBringUpInv : Obligations.StepKeepsBringUpInv := by
  intro s t hctl hs h
  obtain rfl | ⟨u, hc, hq⟩ := hctl.step_cases h
  · exact bringUpInv_resetEdge _
  · have hu : BringUpInv u := (hs.withHost _).hostChange hc
    obtain rfl | hq := hq
    · exact hu
    · exact hu.seqChange hq

end Sys2Proof.Machine
end

section
/-!
Who writes what: the host's access and the sequencer's step, and what each does to `OVR` (10_state.md R33;
20_memory.md R57; 60_exceptions.md R223).
-/

namespace Sys2Proof.Machine

variable {s t u : State} {mode : SeqMode}

theorem HostChange.line_eq (hc : HostChange s u) : u.line = s.line := by cases hc <;> simp

theorem HostChange.lastFrame_eq (hc : HostChange s u) : u.lastFrame = s.lastFrame := by cases hc <;> simp

theorem HostChange.shadow_eq (hc : HostChange s u) : u.shadow = s.shadow := by cases hc <;> simp

theorem HostChange.busy_of_busy (hc : HostChange s u) (hb : s.status.busy = true) : u.status.busy = true := by
  cases hc <;> simp [hb]

theorem HostChange.str_eq_of_busy (hc : HostChange s u) (hb : s.status.busy = true) : u.str = s.str := by
  cases hc with
  | bufferWritten idle => simp [hb] at idle
  | _ => simp

theorem HostChange.initDone_of_initDone (hc : HostChange s u) (h : u.status.initDone = true) :
    s.status.initDone = true := by
  cases hc with
  | accepted idle i => simp at h; exact h.2
  | _ => simpa using h

theorem SeqChange.host_eq (hq : SeqChange mode s t) : t.host = s.host := by cases hq <;> simp

theorem SeqChange.str_eq (hq : SeqChange mode s t) : t.str = s.str := by cases hq <;> simp

theorem SeqChange.ovr_eq (hq : SeqChange mode s t) : t.status.ovr = s.status.ovr := by cases hq <;> simp

theorem SeqChange.result_eq (hq : SeqChange mode s t) : t.status.result = s.status.result := by cases hq <;> simp

theorem SeqChange.fq_eq (hq : SeqChange mode s t) : t.seq.fq = s.seq.fq := by cases hq <;> simp

/-- `BUSY` falls and `INIT_DONE` rises when a list or a settle delay ends; neither ever moves the other way (R134). -/
structure BusyFallsDoneRises (s t : State) : Prop where
  busy : t.status.busy = true → s.status.busy = true
  done : s.status.initDone = true → t.status.initDone = true

theorem BusyFallsDoneRises.of_status_eq (h : t.status = s.status) : BusyFallsDoneRises s t := by
  constructor <;> simp [h]

theorem finishInit_busyFallsDoneRises (s : State) : BusyFallsDoneRises s (finishInit s) := by constructor <;> simp

theorem endOfList_busyFallsDoneRises (s : State) : BusyFallsDoneRises s (endOfList s) := by
  rcases endOfList_cases s with ⟨-, -, e⟩ | ⟨-, -, e⟩ | ⟨-, e⟩ <;> rw [e]
  · exact .of_status_eq rfl
  · exact finishInit_busyFallsDoneRises s
  · constructor <;> simp

theorem slotEnd_busyFallsDoneRises (w : Word) (s : State) : BusyFallsDoneRises s (slotEnd w s) := by
  have hms := s.seq.ms.isLt
  by_cases h : s.seq.ms.val < 49
  · exact .of_status_eq (by rw [slotEnd_inside w h])
  · by_cases hfi : s.seq.fi + 1 < s.seq.fq.length
    · exact .of_status_eq (by rw [slotEnd_next w (by omega) hfi]; rfl)
    · rw [slotEnd_last w (by omega) hfi]
      have hend := endOfList_busyFallsDoneRises (frameClosed w s)
      exact ⟨hend.busy, hend.done⟩

theorem SeqChange.busyFallsDoneRises (hq : SeqChange mode s t) : BusyFallsDoneRises s t := by
  cases hq with
  | still => exact .of_status_eq rfl
  | counted => exact .of_status_eq rfl
  | slotEnded _ _ w => exact slotEnd_busyFallsDoneRises w s
  | settled =>
    unfold settleEdge
    split
    · exact .of_status_eq rfl
    · exact finishInit_busyFallsDoneRises s

/-- Settles O38: each half is what `HostChange` and `SeqChange` list. -/
theorem hostAndSequencerWriteSeparateState : Obligations.HostAndSequencerWriteSeparateState := by
  constructor
  · intro p s t h
    obtain ⟨u, hu, hc⟩ := hostEdge_change p s
    obtain rfl : u = t := by simpa [hu] using h
    exact ⟨hc.line_eq, hc.lastFrame_eq, hc.shadow_eq, hc.host_eq,
      fun hb => ⟨hc.busy_of_busy hb, hc.seq_eq_of_busy hb, hc.str_eq_of_busy hb⟩, hc.initDone_of_initDone⟩
  · intro m s t h
    have hq := seqEdge_change h
    exact ⟨hq.str_eq, hq.host_eq, hq.ovr_eq, hq.result_eq, hq.fq_eq,
      hq.busyFallsDoneRises.busy, hq.busyFallsDoneRises.done⟩

theorem writeStatus_ovr (v : Word) (s : State) :
    (writeStatus v s).status.ovr = (!v.getLsbD 2 && s.status.ovr) := by
  unfold writeStatus statusAfterWrite
  cases h : v.getLsbD 2 <;> simp

theorem writeBuffer_ovr (b : StrBuf) (s : State) :
    (writeBuffer b s).status.ovr = (s.status.busy || s.status.ovr) := by
  cases hb : s.status.busy <;> simp [writeBuffer, hb]

theorem issueCommand_ovr (ok b : Bool) (fs : List Word) (s : State) :
    (issueCommand ok b fs s).status.ovr = (s.status.busy || s.status.ovr) := by
  cases hb : s.status.busy
  · cases ok
    · simp [issueCommand_of_not_ok hb]
    · simp [issueCommand_of_ok hb]
  · simp [issueCommand_of_busy hb]

theorem writeCmd_ovr {w : Word} (h : writeCmd w s = .next u) :
    u.status.ovr = (s.status.busy || s.status.ovr) := by
  unfold writeCmd at h
  split at h
  · rw [exec_eq_issueCommand] at h
    cases h
    exact issueCommand_ovr ..
  · cases h
    cases hb : s.status.busy <;> simp [issueIllegal, hb]

theorem addr_of_regAt_status : ∀ {a : HostAddr}, regAt a = .status → a = 1#3 := by decide

/-- The cycle writes `CMD` or a string-buffer register, the writes a busy block drops (R223). -/
def WritesCmdOrBuffer (p : PortIn) : Prop :=
  p.hWe = true ∧ (p.hAddr = 0#3 ∨ (2 ≤ p.hAddr.toNat ∧ p.hAddr.toNat ≤ 5))

theorem addr_of_regAt_cmd_or_buffer : ∀ {a : HostAddr},
    regAt a ≠ .status → regAt a ≠ .lastFrame → regAt a ≠ .shadow → a = 0#3 ∨ (2 ≤ a.toNat ∧ a.toNat ≤ 5) := by
  decide

/-- What the host's access does to `OVR`: the `STATUS` write may clear it, a dropped write sets it, and nothing else
touches it. -/
theorem hostEdge_ovr {p : PortIn} (h : hostEdge p s = .next u) :
    (p.hWe = true ∧ p.hAddr = 1#3 ∧ u.status.ovr = (!p.hWdata.getLsbD 2 && s.status.ovr))
    ∨ (WritesCmdOrBuffer p ∧ u.status.ovr = (s.status.busy || s.status.ovr))
    ∨ u.status.ovr = s.status.ovr := by
  unfold hostEdge at h
  split at h
  case isFalse => cases h; exact .inr (.inr rfl)
  case isTrue hwe =>
    cases hr : regAt p.hAddr <;> rw [hr] at h
    case status => cases h; exact .inl ⟨hwe, addr_of_regAt_status hr, writeStatus_ovr ..⟩
    case lastFrame => cases h; exact .inr (.inr rfl)
    case shadow => cases h; exact .inr (.inr rfl)
    all_goals
      have haddr := addr_of_regAt_cmd_or_buffer (a := p.hAddr) (by simp [hr]) (by simp [hr]) (by simp [hr])
      refine .inr (.inl ⟨⟨hwe, haddr⟩, ?_⟩)
    case cmd => exact writeCmd_ovr h
    all_goals cases h; exact writeBuffer_ovr ..

/-- Settles O19: a reset edge clears `OVR`; on any other edge only the host's access can move it, and `hostEdge_ovr`
says when. -/
theorem overrunFlagIsSticky : Obligations.OverrunFlagIsSticky := by
  intro s t h
  obtain ⟨hr, rfl⟩ | ⟨hr, u, hu, -, hq⟩ := step_cases h
  · exact ⟨fun _ _ => .inl hr, fun _ h1 => absurd h1 Bool.false_ne_true⟩
  · rw [hq.ovr_eq]
    obtain ⟨hwe, haddr, e⟩ | ⟨⟨hwe, haddr⟩, e⟩ | e := hostEdge_ovr hu <;> rw [e] <;> dsimp only
    · exact ⟨fun h1 h0 => .inr ⟨hwe, haddr, by simpa [h1] using h0⟩, fun h0 h1 => by simp [h0] at h1⟩
    · exact ⟨fun h1 h0 => by simp [h1] at h0, fun h0 h1 => ⟨by simpa [h0] using h1, hr, hwe, haddr⟩⟩
    · exact ⟨fun h1 h0 => by simp [h1] at h0, fun h0 h1 => by simp [h0] at h1⟩

end Sys2Proof.Machine
end

section
/-!
The registers a host reads (10_state.md R23 to R29) and the state after reset (R35).
-/

namespace Sys2Proof.Machine

/-- Every `STATUS` bit is where R26 puts it, and the reserved ones are 0. -/
theorem statusWord_fields (l : Lines) (st : Status) :
    let v := statusWord l st
    v.getLsbD 0 = st.busy ∧ v.getLsbD 1 = st.initDone ∧ v.getLsbD 2 = st.ovr ∧ v.getLsbD 3 = false
    ∧ v.extractLsb' 4 4 = st.result ∧ v.getLsbD 8 = l.cs ∧ v.getLsbD 9 = l.clk ∧ v.getLsbD 10 = l.din
    ∧ v.extractLsb' 11 5 = 0#5 := by
  obtain ⟨b, i, o, r⟩ := st; obtain ⟨x, y, z⟩ := l
  revert b i o r x y z; decide

/-- Every `SHADOW` bit is where R29 puts it, and the reserved ones are 0. -/
theorem shadowWord_fields (sh : Shadow) :
    let v := shadowWord sh
    v.extractLsb' 0 4 = sh.intensity ∧ v.extractLsb' 4 3 = sh.scanLimit ∧ v.getLsbD 7 = sh.normalOp
    ∧ v.getLsbD 8 = sh.test ∧ v.extractLsb' 9 6 = 0#6 ∧ v.getLsbD 15 = sh.known := by
  obtain ⟨i, l, n, t, k⟩ := sh
  revert i l n t k; decide

/-- Settles O23: five registers read their value, and the two flag words their fields. -/
theorem hostReadsReturnTheRegisters : Obligations.HostReadsReturnTheRegisters := fun s =>
  ⟨rfl, rfl, rfl, rfl, rfl, rfl, statusWord_fields s.line s.status, shadowWord_fields s.shadow⟩

/-- Settles O24: the four registers one by one. -/
theorem stringBufferPacking : Obligations.StringBufferPacking := by
  intro s k hk
  match k, hk with
  | 0, _ => exact ⟨rfl, rfl⟩
  | 1, _ => exact ⟨rfl, rfl⟩
  | 2, _ => exact ⟨rfl, rfl⟩
  | 3, _ => exact ⟨rfl, rfl⟩

theorem initFrames_words : initFrames = [0x0F00#16, 0x0B07#16, 0x0A0F#16, 0x0C01#16, 0x0800#16, 0x0700#16, 0x0600#16,
    0x0500#16, 0x0400#16, 0x0300#16, 0x0200#16, 0x0100#16] := by
  rw [initFrames_eq, clearFrames_eq]; rfl

theorem reset_status_word : readReg .status State.reset = 0x0101#16 := by decide

theorem reset_shadow_word : readReg .shadow State.reset = 0x0000#16 := by decide

/-- Settles O39: the edge answers `resetEdge`, whose bring-up list is written out. -/
theorem resetEdgeRestoresEverything : Obligations.ResetEdgeRestoresEverything := by
  intro s p rest hhost hrst
  have hdrive : (hostDrive s).rst = true := by simpa [hostDrive, hhost] using hrst
  have hrest : hostRest s = rest := by simp [hostRest, hhost]
  refine ⟨_, step_of_rst hdrive, ?_, reset_status_word, reset_shadow_word⟩
  rw [hrest, resetEdge, State.reset, initFrames_words]

/-- At reset the lines are idle, and the bring-up has no micro-step behind it (R35). -/
theorem lineInv_reset : LineInv State.reset where
  still_ms := fun _ => rfl
  cs_level := rfl
  clk_level := rfl
  din_level := by intro w _ h; simp [State.reset] at h

/-- Settles O52: an edge with `rst` = 1 leads to a state of the control, wire and bring-up invariants, and reset is that
state with an empty script. -/
theorem resetMeetsTheInvariant : Obligations.ResetMeetsTheInvariant where
  control := controlInv_resetEdge []
  lines := lineInv_reset
  wire := wireInv_resetEdge []
  bringUp := bringUpInv_resetEdge []

end Sys2Proof.Machine
end

section
/-!
Runs of a busy block, whatever the host does short of a reset. The host shows only in its script and in `OVR`
(60_exceptions.md R223), so a run is a relation between block states, and runs compose.
-/

namespace Sys2Proof.Machine

variable {s t u : State}

/-- `s` with the host's script and `OVR` at given values: all that a host can change of a busy block. -/
def hosted (host : List HostOp) (ovr : Bool) (s : State) : State :=
  { s with host := host, status := { s.status with ovr := ovr } }

section Hosted
variable (host : List HostOp) (ovr : Bool) (s : State)

@[simp] theorem hosted_line : (hosted host ovr s).line = s.line := rfl
@[simp] theorem hosted_seq : (hosted host ovr s).seq = s.seq := rfl

theorem endOfList_hosted : endOfList (hosted host ovr s) = hosted host ovr (endOfList s) := by
  cases h : s.seq.init
  · simp [endOfList, h, hosted]
  · by_cases hc : 0 < Config.settleCycles <;> simp [endOfList, h, hc, hosted, finishInit]

theorem slotEnd_hosted (w : Word) : slotEnd w (hosted host ovr s) = hosted host ovr (slotEnd w s) := by
  have hms := s.seq.ms.isLt
  by_cases h : s.seq.ms.val < 49
  · rw [slotEnd_inside w h, slotEnd_inside w (s := hosted host ovr s) h]; rfl
  · have h49 : s.seq.ms.val = 49 := by omega
    by_cases hfi : s.seq.fi + 1 < s.seq.fq.length
    · rw [slotEnd_next w h49 hfi, slotEnd_next w (s := hosted host ovr s) h49 hfi]; rfl
    · rw [slotEnd_last w h49 hfi, slotEnd_last w (s := hosted host ovr s) h49 hfi]
      exact endOfList_hosted host ovr (frameClosed w s)

theorem settleEdge_hosted : settleEdge (hosted host ovr s) = hosted host ovr (settleEdge s) := by
  by_cases h : s.seq.settle < Config.settleCycles - 1 <;> simp [settleEdge, h, hosted, finishInit]

end Hosted

/-- The sequencer's step neither reads nor writes what the host can change. -/
theorem seqEdge_hosted {mode : SeqMode} (host : List HostOp) (ovr : Bool) (h : seqEdge mode s = .next t) :
    seqEdge mode (hosted host ovr s) = .next (hosted host ovr t) := by
  cases seqEdge_change h with
  | still m => subst m; rfl
  | counted m hd => subst m; simp [seqEdge, runEdge, hd, hosted]
  | slotEnded m hd w hw => subst m; simp [seqEdge, runEdge, hd, hw, slotEnd_hosted]
  | settled m => subst m; simp [seqEdge, settleEdge_hosted]

/-- The next `n` edges lead from `s` to `t` with `tr` on the wire, and the block is busy before each of them. -/
structure RunsBusy (n : Nat) (tr : List Lines) (s t : State) : Prop where
  reaches : after n s = some t
  trace   : wireTrace n s = tr
  busy    : ∀ k, k < n → ∃ u, after k s = some u ∧ u.status.busy = true

theorem RunsBusy.trans {m n : Nat} {tr tr' : List Lines} (h : RunsBusy m tr s u) (h' : RunsBusy n tr' u t) :
    RunsBusy (m + n) (tr ++ tr') s t where
  reaches := by rw [after_add, h.reaches]; exact h'.reaches
  trace := by rw [wireTrace_add n h.reaches, h.trace, h'.trace]
  busy := fun k hk => by
    by_cases hkm : k < m
    · exact h.busy k hkm
    · obtain ⟨j, rfl⟩ := Nat.exists_eq_add_of_le (Nat.le_of_not_lt hkm)
      obtain ⟨v, hv, hb⟩ := h'.busy j (by omega)
      exact ⟨v, by rw [after_add, h.reaches]; exact hv, hb⟩

/-- `RunsBusy` for every host without a reset: from `s` with any script and any `OVR`, to `t` but for these two. -/
def BusyRun (n : Nat) (tr : List Lines) (s t : State) : Prop :=
  ∀ host ovr, resetFree host = true →
    ∃ host' ovr', resetFree host' = true ∧ RunsBusy n tr (hosted host ovr s) (hosted host' ovr' t)

theorem BusyRun.refl (s : State) : BusyRun 0 [] s s := fun host ovr hf =>
  ⟨host, ovr, hf, rfl, rfl, fun _ hk => absurd hk (Nat.not_lt_zero _)⟩

theorem BusyRun.trans {m n : Nat} {tr tr' : List Lines} (h : BusyRun m tr s u) (h' : BusyRun n tr' u t) :
    BusyRun (m + n) (tr ++ tr') s t := fun host ovr hf => by
  obtain ⟨host₁, ovr₁, hf₁, hr₁⟩ := h host ovr hf
  obtain ⟨host₂, ovr₂, hf₂, hr₂⟩ := h' host₁ ovr₁ hf₁
  exact ⟨host₂, ovr₂, hf₂, hr₁.trans hr₂⟩

/-- One edge of a busy block is the sequencer's step; it adds a triple to the trace where it ends a slot. -/
theorem BusyRun.single (hb : s.status.busy = true) (h : seqEdge s.seq.mode s = .next t) :
    BusyRun 1 (if s.seq.mode = .run ∧ ¬ s.seq.div < Config.spiDiv - 1 then [t.line] else []) s t := by
  intro host ovr hf
  have hr : (hostDrive (hosted host ovr s)).rst = false := hostDrive_of_resetFree hf
  obtain ⟨o, ho⟩ := step_of_busy (s := hosted host ovr s) hb hr
  have hstep : step (hosted host ovr s) = .next (hosted (hostRest (hosted host ovr s)) o t) :=
    ho.trans (seqEdge_hosted (s := s) _ o h)
  have hdue : microstepDue (hosted host ovr s) = decide (s.seq.mode = .run ∧ ¬ s.seq.div < Config.spiDiv - 1) := by
    rw [microstepDue, hr, Bool.decide_and, decide_not]
    rfl
  refine ⟨_, o, resetFree_hostRest hf, after_one hstep, ?_, fun k hk => ?_⟩
  · split
    case isTrue h => exact (wireTrace_one_due hstep (hdue.trans (decide_eq_true h)) :)
    case isFalse h => exact wireTrace_one_still hstep (hdue.trans (decide_eq_false h))
  · obtain rfl : k = 0 := by omega
    exact ⟨_, rfl, hb⟩

end Sys2Proof.Machine
end

section
/-!
A slot, a frame, a frame list and the settle delay as runs of a busy block (40_spi_bitbang.md R101, R103, R107;
41_control_commands.md R133, R134).
-/

namespace Sys2Proof.Machine

variable {s t u : State} {w : Word}

theorem seqEdge_count (hrun : s.seq.mode = .run) (hdiv : s.seq.div < Config.spiDiv - 1) :
    seqEdge s.seq.mode s = .next { s with seq := { s.seq with div := s.seq.div + 1 } } := by
  rw [hrun]; simp [seqEdge, runEdge, hdiv]

theorem seqEdge_slotEnd (hrun : s.seq.mode = .run) (hdiv : ¬ s.seq.div < Config.spiDiv - 1)
    (hw : s.seq.fq[s.seq.fi]? = some w) : seqEdge s.seq.mode s = .next (slotEnd w s) := by
  rw [hrun]; simp [seqEdge, runEdge, hdiv, hw]

theorem seqEdge_settle_count (hset : s.seq.mode = .settle) (hlt : s.seq.settle < Config.settleCycles - 1) :
    seqEdge s.seq.mode s = .next { s with seq := { s.seq with settle := s.seq.settle + 1 } } := by
  rw [hset]; simp [seqEdge, settleEdge, hlt]

theorem seqEdge_settle_end (hset : s.seq.mode = .settle) (hend : ¬ s.seq.settle < Config.settleCycles - 1) :
    seqEdge s.seq.mode s = .next (finishInit s) := by
  rw [hset]; simp [seqEdge, settleEdge, hend]

/-- Within a slot only the divider counts, and the lines hold (R101). -/
theorem slot_count_run (hrun : s.seq.mode = .run) (hb : s.status.busy = true) (hdiv : s.seq.div = 0) {k : Nat}
    (hk : k < Config.spiDiv) : BusyRun k [] s { s with seq := { s.seq with div := k } } := by
  induction k with
  | zero =>
    have hzero : { s.seq with div := 0 } = s.seq := by rw [← hdiv]
    rw [hzero]
    exact .refl s
  | succ k ih =>
    have hlt : k < Config.spiDiv - 1 := by omega
    refine (ih (by omega)).trans (tr' := []) ?_
    simpa [hlt] using BusyRun.single (s := { s with seq := { s.seq with div := k } }) hb
      (seqEdge_count hrun hlt)

/-- A slot takes `SPI_DIV` edges, the micro-step at the last of them (R101, R133). -/
theorem slot_run (hrun : s.seq.mode = .run) (hb : s.status.busy = true) (hdiv : s.seq.div = 0)
    (hw : s.seq.fq[s.seq.fi]? = some w) :
    BusyRun Config.spiDiv [microstepLines w s.seq.ms.val s.line] s (slotEnd w s) := by
  have hpos := spiDiv_pos
  have hlast : BusyRun 1 [microstepLines w s.seq.ms.val s.line]
      { s with seq := { s.seq with div := Config.spiDiv - 1 } } (slotEnd w s) := by
    simpa [hrun] using BusyRun.single (s := { s with seq := { s.seq with div := Config.spiDiv - 1 } })
      (t := slotEnd w s) hb (seqEdge_slotEnd hrun (Nat.lt_irrefl _) hw)
  have hslot := (slot_count_run hrun hb hdiv (k := Config.spiDiv - 1) (by omega)).trans hlast
  rwa [Nat.sub_add_cancel hpos] at hslot

/-- The block is about to send the frame at `seq.fi`. -/
structure FrameStart (s : State) : Prop where
  run  : s.seq.mode = .run
  busy : s.status.busy = true
  ms   : s.seq.ms = 0
  div  : s.seq.div = 0

/-- The block after the first `ms` micro-steps of frame `w`, from the frame's start `s`. -/
def midFrame (w : Word) (ms : Fin 50) (s : State) : State :=
  { s with line := levelsAfter w s.line ms.val, seq := { s.seq with ms := ms, div := 0 } }

theorem FrameStart.midFrame_zero (h : FrameStart s) (w : Word) : midFrame w 0 s = s := by
  have hseq : { s.seq with ms := 0, div := 0 } = s.seq := by rw [← h.ms, ← h.div]
  simp [midFrame, levelsAfter, hseq]

theorem midFrame_run (h : FrameStart s) (hw : s.seq.fq[s.seq.fi]? = some w) {ms : Nat} (hms : ms < 50) :
    BusyRun (ms * Config.spiDiv) ((List.range ms).map fun k => levelsAfter w s.line (k + 1)) s
      (midFrame w ⟨ms, hms⟩ s) := by
  induction ms with
  | zero => simpa [h.midFrame_zero w] using BusyRun.refl s
  | succ ms ih =>
    have hmid : midFrame w ⟨ms + 1, hms⟩ s = slotEnd w (midFrame w ⟨ms, by omega⟩ s) := by
      rw [slotEnd_inside w (s := midFrame w ⟨ms, _⟩ s) (by simp [midFrame]; omega)]; rfl
    rw [Nat.succ_mul, List.range_succ, List.map_append, hmid]
    exact (ih (by omega)).trans (slot_run (s := midFrame w ⟨ms, _⟩ s) h.run h.busy rfl hw)

/-- The fifty slots of a frame (R101, R103); what closes the last of them is `slotEnd_next` or `slotEnd_last`. -/
theorem frame_run (h : FrameStart s) (hw : s.seq.fq[s.seq.fi]? = some w) :
    BusyRun (50 * Config.spiDiv) (frameTrace w s.line) s (slotEnd w (midFrame w 49 s)) := by
  have hrun := (midFrame_run h hw (ms := 49) (by omega)).trans
    (slot_run (s := midFrame w 49 s) h.run h.busy rfl hw)
  rw [← Nat.succ_mul] at hrun
  rw [frameTrace, List.range_succ, List.map_append]
  exact hrun

/-- `SHADOW` after the frames `ws`, the first of them at index `fi` of its list (R107). -/
def shadowAfterList (init : Bool) : Nat → List Word → Shadow → Shadow
  | _, [], sh => sh
  | fi, w :: ws, sh => shadowAfterList init (fi + 1) ws (shadowAfter (init && decide (fi = 3)) w sh)

/-- The trace of the frames `ws`, from the levels `l`. -/
def framesTrace : List Word → Lines → List Lines
  | [], _ => []
  | w :: ws, l => frameTrace w l ++ framesTrace ws (levelsAfter w l 50)

/-- The block at the closing edge of the last of the frames `ws`, from the start `s` of the first. -/
def listSent (ws : List Word) (s : State) : State :=
  { s with
    line := ws.foldl (fun l w => levelsAfter w l 50) s.line
    lastFrame := ws.getLastD s.lastFrame
    shadow := shadowAfterList s.seq.init s.seq.fi ws s.shadow
    seq := { s.seq with fi := s.seq.fi + (ws.length - 1), ms := 0, div := 0 } }

theorem levelsAfter_fifty (w : Word) (l : Lines) : levelsAfter w l 50 = { levelsAfter w l 49 with cs := true } := rfl

theorem listSent_singleton (w : Word) (s : State) : listSent [w] s = frameClosed w (midFrame w 49 s) := rfl

theorem listSent_cons_cons (w v : Word) (ws : List Word) (s : State) :
    listSent (w :: v :: ws) s = listSent (v :: ws) (nextFrame w (midFrame w 49 s)) := by
  have hfi : s.seq.fi + (ws.length + 1) = s.seq.fi + 1 + ws.length := by omega
  simp [listSent, shadowAfterList, nextFrame, frameClosed, midFrame, levelsAfter_fifty, List.getLast?_cons, hfi]

/-- The frames still to send go out one after the other, and then the list ends (R133, R134). -/
theorem list_run {ws : List Word} (h : FrameStart s) (hws : s.seq.fq.drop s.seq.fi = ws) (hne : ws ≠ []) :
    BusyRun (50 * ws.length * Config.spiDiv) (framesTrace ws s.line) s (endOfList (listSent ws s)) := by
  induction ws generalizing s with
  | nil => exact absurd rfl hne
  | cons w ws ih =>
    have hw : s.seq.fq[s.seq.fi]? = some w := by
      rw [← List.head?_drop, hws]; rfl
    have hlen : s.seq.fq.length - s.seq.fi = ws.length + 1 := by
      rw [← List.length_drop, hws]; rfl
    have hframe := frame_run h hw
    cases ws with
    | nil =>
      rw [slotEnd_last w rfl (by simp [midFrame] at hlen ⊢; omega)] at hframe
      simpa [framesTrace, listSent_singleton] using hframe
    | cons v ws =>
      rw [List.length_cons] at hlen
      rw [slotEnd_next w rfl (by simp [midFrame]; omega)] at hframe
      have hdrop : s.seq.fq.drop (s.seq.fi + 1) = v :: ws := by
        rw [← List.tail_drop, hws]; rfl
      have hrest := ih (s := nextFrame w (midFrame w 49 s)) ⟨h.run, h.busy, rfl, rfl⟩ hdrop (by simp)
      rw [listSent_cons_cons]
      have htotal : 50 * (w :: v :: ws).length * Config.spiDiv
          = 50 * Config.spiDiv + 50 * (v :: ws).length * Config.spiDiv := by simp only [List.length_cons]; ring
      rw [htotal]
      exact hframe.trans hrest

/-- Within the settle delay only its counter moves (R133, R142). -/
theorem settle_count_run (hset : s.seq.mode = .settle) (hb : s.status.busy = true) (h0 : s.seq.settle = 0) {k : Nat}
    (hk : k ≤ Config.settleCycles - 1) : BusyRun k [] s { s with seq := { s.seq with settle := k } } := by
  induction k with
  | zero =>
    have hzero : { s.seq with settle := 0 } = s.seq := by rw [← h0]
    rw [hzero]
    exact .refl s
  | succ k ih =>
    have hlt : k < Config.settleCycles - 1 := by omega
    refine (ih (by omega)).trans (tr' := []) ?_
    simpa [hset] using BusyRun.single (s := { s with seq := { s.seq with settle := k } }) hb
      (seqEdge_settle_count hset hlt)

/-- From the end of a bring-up's list, `SETTLE_CYCLES` edges with the lines still lead to `finish_init()` (R134,
R142). -/
theorem settle_run (hb : s.status.busy = true) (hinit : s.seq.init = true) :
    ∃ k, BusyRun Config.settleCycles [] (endOfList s) (finishInit { s with seq := { s.seq with settle := k } }) := by
  rcases endOfList_cases s with ⟨-, hpos, e⟩ | ⟨-, hzero, e⟩ | ⟨hnot, -⟩
  · refine ⟨Config.settleCycles - 1, ?_⟩
    have hlast : BusyRun 1 [] { s with seq := { s.seq with mode := .settle, settle := Config.settleCycles - 1 } }
        (finishInit { s with seq := { s.seq with settle := Config.settleCycles - 1 } }) :=
      .single (s := { s with seq := { s.seq with mode := .settle, settle := Config.settleCycles - 1 } }) hb
        (seqEdge_settle_end rfl (Nat.lt_irrefl _))
    have hdelay := (settle_count_run (s := { s with seq := { s.seq with mode := .settle, settle := 0 } }) rfl hb rfl
      le_rfl).trans hlast
    rw [Nat.sub_add_cancel hpos] at hdelay
    rw [e]
    exact hdelay
  · refine ⟨s.seq.settle, ?_⟩
    rw [hzero, e]
    exact .refl _
  · simp [hinit] at hnot

end Sys2Proof.Machine
end

section
/-!
What a receiver reads from a frame's trace, and the levels a frame leaves (40_spi_bitbang.md R102, R103, R106, R110).
-/

namespace Sys2Proof.Machine

variable (w : Word) (l : Lines)

/-- Micro-step `3j + 1` presents bit `j` on `DIN`. -/
theorem microstepLines_present {j : Nat} (hj : j < 16) :
    microstepLines w (3 * j + 1) l = { l with din := sentBit w j } := by
  have h49 : 3 * j + 1 ≠ 49 := by omega
  simp [microstepLines, h49]

/-- Micro-step `3j + 2` raises `CLK`. -/
theorem microstepLines_rise (j : Nat) : microstepLines w (3 * j + 2) l = { l with clk := true } := by
  have h49 : 3 * j + 2 ≠ 49 := by omega
  have hmod : (3 * j + 1) % 3 = 1 := by omega
  simp [microstepLines, h49, hmod]

/-- Micro-step `3j + 3` lowers `CLK`. -/
theorem microstepLines_fall (j : Nat) : microstepLines w (3 * j + 3) l = { l with clk := false } := by
  have h49 : 3 * j + 3 ≠ 49 := by omega
  have hmod : (3 * j + 2) % 3 = 2 := by omega
  simp [microstepLines, h49, hmod]

/-- `DIN` in a frame once `j` bits have been presented. -/
def dinAfter : Nat → Bool
  | 0 => l.din
  | j + 1 => sentBit w j

variable {l}

/-- After the `CS` fall and `j` whole bits, `CLK` is low and `DIN` holds the last of them. -/
theorem levelsAfter_bits (hclk : l.clk = false) {j : Nat} (hj : j ≤ 16) :
    levelsAfter w l (3 * j + 1) = { cs := false, clk := false, din := dinAfter w l j } := by
  induction j with
  | zero => simp [levelsAfter, microstepLines, hclk, dinAfter]
  | succ j ih =>
    have hstep : levelsAfter w l (3 * (j + 1) + 1) = microstepLines w (3 * j + 3) (microstepLines w (3 * j + 2)
        (microstepLines w (3 * j + 1) (levelsAfter w l (3 * j + 1)))) := rfl
    rw [hstep, ih (by omega), microstepLines_present _ _ hj, microstepLines_rise, microstepLines_fall]
    rfl

/-- A frame from idle levels ends in idle levels, with its last bit on `DIN` (R106). -/
theorem levelsAfter_frame (hclk : l.clk = false) :
    levelsAfter w l 50 = { cs := true, clk := false, din := sentBit w 15 } := by
  rw [levelsAfter_fifty, levelsAfter_bits w hclk (j := 16) le_rfl]
  rfl

/-- The triples of `n` micro-steps of frame `w` from micro-step `ms` on. -/
def tracePart (l : Lines) (ms n : Nat) : List Lines := (List.range' ms n).map fun k => levelsAfter w l (k + 1)

theorem frameTrace_eq (l : Lines) :
    frameTrace w l = levelsAfter w l 1 :: (tracePart w l 1 48 ++ [levelsAfter w l 50]) := rfl

/-- The receiver takes one bit from its three micro-steps. -/
theorem receive_bit {d b : Bool} (bits : List Bool) (rest : List Lines) :
    receive { cs := false, clk := false, din := d } bits
      ({ cs := false, clk := false, din := b } :: { cs := false, clk := true, din := b }
        :: { cs := false, clk := false, din := b } :: rest)
    = receive { cs := false, clk := false, din := b } (bits ++ [b]) rest := by
  simp [receive]

theorem tracePart_bit (hclk : l.clk = false) {j : Nat} (hj : j < 16) (n : Nat) :
    tracePart w l (3 * j + 1) (3 * (n + 1)) =
      { cs := false, clk := false, din := sentBit w j } :: { cs := false, clk := true, din := sentBit w j }
        :: { cs := false, clk := false, din := sentBit w j } :: tracePart w l (3 * (j + 1) + 1) (3 * n) := by
  have hpresent : levelsAfter w l (3 * j + 2) = { cs := false, clk := false, din := sentBit w j } := by
    rw [levelsAfter, microstepLines_present _ _ hj, levelsAfter_bits w hclk (by omega)]
  have hrise : levelsAfter w l (3 * j + 3) = { cs := false, clk := true, din := sentBit w j } := by
    rw [levelsAfter, microstepLines_rise, hpresent]
  have hfall : levelsAfter w l (3 * j + 4) = { cs := false, clk := false, din := sentBit w j } := by
    rw [levelsAfter, microstepLines_fall, hrise]
  have hsplit : tracePart w l (3 * j + 1) (3 * (n + 1)) = levelsAfter w l (3 * j + 2) :: levelsAfter w l (3 * j + 3)
      :: levelsAfter w l (3 * j + 4) :: tracePart w l (3 * (j + 1) + 1) (3 * n) := rfl
  rw [hsplit, hpresent, hrise, hfall]

/-- From bit `j` of a frame on, the receiver collects the next `n` bits. -/
theorem receive_bits (hclk : l.clk = false) (rest : List Lines) (n : Nat) {j : Nat} (hj : j + n ≤ 16)
    (bits : List Bool) :
    receive { cs := false, clk := false, din := dinAfter w l j } bits (tracePart w l (3 * j + 1) (3 * n) ++ rest)
    = receive { cs := false, clk := false, din := dinAfter w l (j + n) }
        (bits ++ (List.range' j n).map (sentBit w)) rest := by
  induction n generalizing j bits with
  | zero => simp [tracePart]
  | succ n ih =>
    rw [tracePart_bit w hclk (by omega), List.cons_append, List.cons_append, List.cons_append, receive_bit]
    have hidx : j + (n + 1) = j + 1 + n := by omega
    rw [hidx, List.range'_succ, List.map_cons, List.append_cons bits _ (List.map _ _)]
    exact ih (j := j + 1) (by omega) (bits ++ [sentBit w j])

/-- The bits of a word, high to low, build up its leading part. -/
theorem foldl_sentBit {k : Nat} (hk : k ≤ 16) :
    ((List.range k).map (sentBit w)).foldl (fun n b => 2 * n + b.toNat) 0 = w.toNat / 2 ^ (16 - k) := by
  induction k with
  | zero => simpa using (Nat.div_eq_of_lt w.isLt).symm
  | succ k ih =>
    have hexp : 16 - k = (15 - k) + 1 := by omega
    have hbit : (sentBit w k).toNat = w.toNat / 2 ^ (15 - k) % 2 := by
      simp [sentBit, BitVec.getLsbD, Nat.toNat_testBit]
    rw [List.range_succ, List.map_append, List.foldl_append, ih (by omega), hexp, pow_succ, ← Nat.div_div_eq_div_mul]
    simp only [List.map_cons, List.map_nil, List.foldl_cons, List.foldl_nil, hbit]
    have hsub : 16 - (k + 1) = 15 - k := by omega
    rw [hsub, Nat.div_add_mod]

theorem wordOfBits_sentBits : wordOfBits ((List.range 16).map (sentBit w)) = w := by
  rw [wordOfBits, foldl_sentBit w le_rfl]
  simp

/-- From idle levels a receiver reads the frame and goes on from the levels the frame leaves (R110). -/
theorem receive_frameTrace (hcs : l.cs = true) (hclk : l.clk = false) (rest : List Lines) :
    receive l [] (frameTrace w l ++ rest) = w :: receive (levelsAfter w l 50) [] rest := by
  have hfall : levelsAfter w l 1 = { cs := false, clk := false, din := dinAfter w l 0 } :=
    levelsAfter_bits w hclk (j := 0) (by omega)
  have hbits := receive_bits w hclk ([levelsAfter w l 50] ++ rest) 16 (j := 0) (by omega) []
  calc receive l [] (frameTrace w l ++ rest)
      = receive (levelsAfter w l 1) [] (tracePart w l 1 48 ++ ([levelsAfter w l 50] ++ rest)) := by
        simp [frameTrace_eq, receive, hcs, hfall]
    _ = receive { cs := false, clk := false, din := dinAfter w l 16 } ((List.range 16).map (sentBit w))
          (levelsAfter w l 50 :: rest) := by rw [hfall]; exact hbits
    _ = w :: receive (levelsAfter w l 50) [] rest := by
        simp [receive, levelsAfter_frame w hclk, wordOfBits_sentBits]

/-- From idle levels a receiver reads exactly the frames sent (R110). -/
theorem receive_framesTrace (ws : List Word) (hcs : l.cs = true) (hclk : l.clk = false) :
    receive l [] (framesTrace ws l) = ws := by
  induction ws generalizing l with
  | nil => rfl
  | cons w ws ih =>
    have hend := levelsAfter_frame w hclk
    rw [framesTrace, receive_frameTrace w hcs hclk, ih (by rw [hend]) (by rw [hend])]

/-- The lines after a list of frames: idle, with the last bit sent on `DIN`. -/
theorem levelsAfter_frames (ws : List Word) (hclk : l.clk = false) :
    (ws ++ [w]).foldl (fun l w => levelsAfter w l 50) l = { cs := true, clk := false, din := sentBit w 15 } := by
  induction ws generalizing l with
  | nil => exact levelsAfter_frame w hclk
  | cons v ws ih =>
    rw [List.cons_append, List.foldl_cons]
    exact ih (by rw [levelsAfter_frame v hclk])

end Sys2Proof.Machine
end

section
/-!
From reset to the state after boot (70_reset_and_hazards.md R251, R255; 41_control_commands.md R141, R142). A host that
writes nothing leaves `OVR` at 0 on the way, which the run of the block does not show.
-/

namespace Sys2Proof.Machine

variable {s t : State}

theorem hostDrive_of_writeFree (h : writeFree s.host = true) : (hostDrive s).hWe = false := by
  unfold hostDrive
  split
  case h_2 p rest e =>
    rw [e] at h
    simp [writeFree, HostOp.writes] at h
    exact h.1
  all_goals rfl

/-- The script only gets shorter. -/
theorem hostRest_subset (s : State) : hostRest s ⊆ s.host := by
  unfold hostRest
  split <;> rename_i e <;> rw [e]
  · exact List.Subset.refl _
  · exact List.subset_cons_self ..
  · split
    · exact List.Subset.refl _
    · exact List.subset_cons_self ..
  · split
    · exact List.Subset.refl _
    · exact List.subset_cons_self ..

theorem writeFree_hostRest (h : writeFree s.host = true) : writeFree (hostRest s) = true := by
  simp only [writeFree, List.all_eq_true] at h ⊢
  exact fun op hop => h op (hostRest_subset s hop)

/-- The script goes on the same way at every edge, a reset edge too. -/
theorem step_host (h : step s = .next t) : t.host = hostRest s := by
  obtain ⟨-, rfl⟩ | ⟨-, u, -, hc, hq⟩ := step_cases h
  · rfl
  · rw [hq.host_eq, hc.host_eq]

/-- What every step keeps holds after every run. -/
theorem after_keeps {P : State → Prop} (hstep : ∀ s t, P s → step s = .next t → P t) {n : Nat} (hs : P s)
    (h : after n s = some t) : P t := by
  induction n generalizing s with
  | zero => cases h; exact hs
  | succ n ih =>
    simp only [after] at h
    split at h
    case h_1 u hu => exact ih (hstep s u hs hu) h
    all_goals cases h

/-- The host writes nothing any more, and `OVR` is 0. -/
def QuietWithoutOverrun (s : State) : Prop := writeFree s.host = true ∧ s.status.ovr = false

/-- A cycle without a write cannot raise `OVR` (R223). -/
theorem step_keeps_quietWithoutOverrun (s t : State) (hs : QuietWithoutOverrun s) (h : step s = .next t) :
    QuietWithoutOverrun t := by
  obtain ⟨hfree, hovr⟩ := hs
  refine ⟨by rw [step_host h]; exact writeFree_hostRest hfree, ?_⟩
  by_contra hrise
  obtain ⟨-, -, hwe, -⟩ := (overrunFlagIsSticky s t h).2 hovr (by simpa using hrise)
  simp [hostDrive_of_writeFree hfree] at hwe

theorem reset_frameStart : FrameStart State.reset := ⟨rfl, rfl, rfl, rfl⟩

/-- The block when the last frame of the bring-up from reset has closed. -/
def bootListSent : State := listSent initFrames State.reset

theorem bootListSent_line : bootListSent.line = { cs := true, clk := false, din := false } := by
  have hsplit : initFrames = initFrames.dropLast ++ [0x0100#16] := by rw [initFrames_words]; rfl
  show initFrames.foldl (fun l w => levelsAfter w l 50) State.reset.line = _
  rw [hsplit, levelsAfter_frames _ _ rfl]
  rfl

theorem bootListSent_lastFrame : bootListSent.lastFrame = 0x0100#16 := by
  show initFrames.getLastD State.reset.lastFrame = _
  rw [initFrames_words]
  rfl

theorem bootListSent_shadow :
    bootListSent.shadow = { intensity := 15#4, scanLimit := 7#3, normalOp := true, test := false, known := true } := by
  show shadowAfterList true 0 initFrames State.reset.shadow = _
  rw [initFrames_words]
  decide

/-- The bring-up from reset: twelve frames and the settle delay, busy throughout (R133, R134, R251). -/
theorem boot_run : ∃ k, BusyRun (600 * Config.spiDiv + Config.settleCycles) (framesTrace initFrames State.reset.line)
    State.reset (finishInit { bootListSent with seq := { bootListSent.seq with settle := k } }) := by
  obtain ⟨k, hsettle⟩ := settle_run (s := bootListSent) rfl rfl
  have hlist : BusyRun (50 * initFrames.length * Config.spiDiv) (framesTrace initFrames State.reset.line)
      State.reset (endOfList bootListSent) := list_run reset_frameStart rfl (by simp [initFrames])
  have hrun := hlist.trans hsettle
  simp only [initFrames_length, List.append_nil, Nat.reduceMul] at hrun
  exact ⟨k, hrun⟩

/-- In the first slot after reset `CS` is still high. -/
theorem reset_slot_run {k : Nat} (hk : k < Config.spiDiv) :
    BusyRun k [] State.reset { State.reset with seq := { State.reset.seq with div := k } } :=
  slot_count_run rfl rfl rfl hk

/-- The first slot after reset ends with the `CS` fall of the first frame (R103). -/
theorem reset_first_microstep : BusyRun Config.spiDiv [microstepLines 0x0F00#16 0 State.reset.line] State.reset
    (slotEnd 0x0F00#16 State.reset) :=
  slot_run (s := State.reset) rfl rfl rfl rfl

/-- Settles O31: `boot_run` for the given host, with the trace read by the receiver. -/
theorem bootReachesTheReadyState : Obligations.BootReachesTheReadyState := by
  intro host hfree s n
  obtain ⟨k, hboot⟩ := boot_run
  obtain ⟨host', ovr', -, hrun⟩ := hboot host false hfree
  refine ⟨fun j hj => ?_, ?_, hrun.busy, ?_, _, hrun.reaches, rfl, ?_, ?_, ?_, rfl, rfl, fun hquiet => ?_⟩
  · obtain ⟨_, _, -, hslot⟩ := reset_slot_run hj host false hfree
    exact ⟨_, hslot.reaches, rfl⟩
  · obtain ⟨_, _, -, hslot⟩ := reset_first_microstep host false hfree
    exact ⟨_, hslot.reaches, by rw [hosted_line, slotEnd_line]; rfl⟩
  · calc receive s.line [] (wireTrace n s)
        = receive s.line [] (framesTrace initFrames s.line) := congrArg _ hrun.trace
      _ = initFrames := receive_framesTrace initFrames rfl rfl
      _ = _ := initFrames_words
  · exact bootListSent_line
  · exact bootListSent_lastFrame
  · show shadowWord bootListSent.shadow = _
    rw [bootListSent_shadow]
    decide
  · obtain ⟨-, hovr⟩ := after_keeps step_keeps_quietWithoutOverrun ⟨hquiet, rfl⟩ hrun.reaches
    obtain rfl : ovr' = false := hovr
    show statusWord bootListSent.line { busy := false, initDone := true, ovr := false, result := 0#4 } = _
    rw [bootListSent_line]
    decide

end Sys2Proof.Machine
end

section
/-!
Host accesses of 20_memory.md: writes by address (R57 to R59), a command write as a step (R52, R130), reads and polling
loops (R53, R60, R89), and how little of the host a busy block notices (R64, R67).
-/

namespace Sys2Proof.Machine

variable {s t : State} {host rest : List HostOp} {p : PortIn} {w : Word} {i : Instr}

theorem writeStatus_of_bit (h : w.getLsbD 2 = true) :
    writeStatus w s = { s with status := { s.status with ovr := false } } := by simp [writeStatus, statusAfterWrite, h]

theorem writeStatus_of_not_bit (h : w.getLsbD 2 = false) : writeStatus w s = s := by
  have hst : statusAfterWrite w s.status = s.status := by rw [statusAfterWrite, h]; rfl
  rw [writeStatus, hst]

theorem writeBuffer_of_busy (b : StrBuf) (hb : s.status.busy = true) : writeBuffer b s = dropWrite s := by
  simp [writeBuffer, hb]

theorem writeBuffer_of_not_busy (b : StrBuf) (hb : s.status.busy = false) : writeBuffer b s = { s with str := b } := by
  simp [writeBuffer, hb]

/-- Settles O20: both values of bit 2, by what `writeStatus` does. -/
theorem statusWriteClearsOverrun : Obligations.StatusWriteClearsOverrun := fun _ _ =>
  ⟨fun h => congrArg _ (writeStatus_of_bit h), fun h => congrArg _ (writeStatus_of_not_bit h)⟩

theorem regAt_of_buffer_addr : ∀ {a : HostAddr}, 2 ≤ a.toNat → a.toNat ≤ 5 →
    regAt a = .str01 ∨ regAt a = .str23 ∨ regAt a = .str45 ∨ regAt a = .str67 := by decide

/-- Settles O21: at each of the four registers the write is `writeBuffer`, by the two values of `BUSY`. -/
theorem stringBufferWrites : Obligations.StringBufferWrites := by
  intro v s
  constructor
  · intro hb
    exact ⟨congrArg _ (writeBuffer_of_not_busy _ hb), congrArg _ (writeBuffer_of_not_busy _ hb),
      congrArg _ (writeBuffer_of_not_busy _ hb), congrArg _ (writeBuffer_of_not_busy _ hb)⟩
  · intro hb a hlow hhigh
    rcases regAt_of_buffer_addr hlow hhigh with hr | hr | hr | hr <;> rw [hr] <;>
      exact congrArg _ (writeBuffer_of_busy _ hb)

/-- Settles O22: addresses 6 and 7 name `LASTFRAME` and `SHADOW`, whose writes answer the state itself. -/
theorem readOnlyRegistersIgnoreWrites : Obligations.ReadOnlyRegistersIgnoreWrites := fun _ _ => ⟨rfl, rfl⟩

theorem hostDrive_of_cycle (h : s.host = .cycle p :: rest) : hostDrive s = p := by simp [hostDrive, h]

theorem hostRest_of_cycle (h : s.host = .cycle p :: rest) : hostRest s = rest := by simp [hostRest, h]

theorem hostEdge_of_command (hd : decode w = some i) : hostEdge (writePort .cmd w) s = exec i s := by
  show writeCmd w s = _
  simp [writeCmd, hd]

/-- The write of a word that decodes to `i` is `issueCommand` at the row of `i`, and then the sequencer's step. -/
theorem step_of_command (h : s.host = .cycle (writePort .cmd w) :: rest) (hd : decode w = some i) :
    step s = seqEdge s.seq.mode
      (issueCommand (inRange i) (isBringUp i) (framesOf { s with host := rest } i) { s with host := rest }) := by
  apply step_eq_seqEdge
  · rw [hostDrive_of_cycle h]; rfl
  · rw [hostDrive_of_cycle h, hostRest_of_cycle h, hostEdge_of_command hd, exec_eq_issueCommand]

/-- Settles O6: `exec` answers what `issueCommand` does, and the step goes on from there. -/
theorem stepRunsTheDecodedCommand : Obligations.StepRunsTheDecodedCommand := by
  intro s w i rest h hd
  have hstep := step_of_command h hd
  refine ⟨⟨_, exec_eq_issueCommand i _, hstep⟩, fun hidle => ?_⟩
  rw [hstep, hidle, exec_eq_issueCommand]
  rfl

/-- Without a write the host only goes on in its script. -/
theorem step_of_no_write (hr : (hostDrive s).rst = false) (hw : (hostDrive s).hWe = false) :
    step s = seqEdge s.seq.mode { s with host := hostRest s } :=
  step_eq_seqEdge hr (by simp [hostEdge, hw])

theorem hostDrive_of_waitIdle (h : s.host = .waitIdle :: rest) : hostDrive s = readPort .status := by
  simp [hostDrive, h]

theorem hostDrive_of_waitInit (h : s.host = .waitInit :: rest) : hostDrive s = readPort .status := by
  simp [hostDrive, h]

theorem hostRest_of_waitIdle (h : s.host = .waitIdle :: rest) :
    hostRest s = if s.status.busy then s.host else rest := by
  simp only [hostRest, h, readStatus_busy]

theorem hostRest_of_waitInit (h : s.host = .waitInit :: rest) :
    hostRest s = if s.status.busy || !s.status.initDone then s.host else rest := by
  simp only [hostRest, h, readStatus_busy, readStatus_initDone]

/-- Settles O25: none of the three operations writes, so the step is `step_of_no_write`. -/
theorem readsChangeNoState : Obligations.ReadsChangeNoState := by
  refine ⟨fun s a d rest h => ?_, fun s rest h => ?_, fun s rest h => ?_⟩
  · have hdrive := hostDrive_of_cycle h
    refine ⟨?_, by rw [hRdata, hdrive]⟩
    rw [step_of_no_write (by rw [hdrive]) (by rw [hdrive]), hostRest_of_cycle h]
  · have hdrive := hostDrive_of_waitIdle h
    rw [step_of_no_write (by rw [hdrive]; rfl) (by rw [hdrive]; rfl), hostRest_of_waitIdle h]
  · have hdrive := hostDrive_of_waitInit h
    rw [step_of_no_write (by rw [hdrive]; rfl) (by rw [hdrive]; rfl), hostRest_of_waitInit h]

/-- A step of a busy block under any script without a reset is the sequencer's step of some `hosted` state. -/
theorem step_withHost_of_busy (hb : s.status.busy = true) (hf : resetFree host = true) :
    ∃ host' ovr, step { s with host := host } = seqEdge s.seq.mode (hosted host' ovr s) := by
  obtain ⟨ovr, h⟩ := step_of_busy (s := { s with host := host }) hb (hostDrive_of_resetFree hf)
  exact ⟨_, ovr, h⟩

/-- Settles O37: both steps are the sequencer's, from states that differ in the host's part only, and `seqEdge_hosted`
carries one to the other. -/
theorem hostCannotDisturbARunningCommand : Obligations.HostCannotDisturbARunningCommand := by
  intro s t₁ t₂ h₁ h₂ hb hf₁ hf₂ hs₁ hs₂
  obtain ⟨host₁, ovr₁, e₁⟩ := step_withHost_of_busy hb hf₁
  obtain ⟨host₂, ovr₂, e₂⟩ := step_withHost_of_busy hb hf₂
  have hmoved : seqEdge s.seq.mode (hosted host₁ ovr₁ s) = .next (hosted host₁ ovr₁ t₂) :=
    seqEdge_hosted (s := hosted host₂ ovr₂ s) host₁ ovr₁ (e₂ ▸ hs₂)
  obtain rfl : hosted host₁ ovr₁ t₂ = t₁ := by simpa [hmoved, hs₁] using e₁.symm
  rfl

end Sys2Proof.Machine
end

section
/-!
A command from its accepting edge to the fall of `BUSY` (41_control_commands.md R131 to R134): the accepted block runs
through its list, a bring-up then through its settle delay, and an empty list is done at once.
-/

namespace Sys2Proof.Machine

variable {s : State} {i : Instr}

/-- What rules R131 to R134 and R107 say of the block `t` when command `i`, issued to the idle block `s`, is done. The
host's script and `OVR` do not occur. -/
structure CommandDone (s : State) (i : Instr) (t : State) : Prop where
  busy      : t.status.busy = false
  mode      : t.seq.mode = .idle
  result    : t.status.result = resultOk
  lastFrame : t.lastFrame = (framesOf s i).getLastD s.lastFrame
  str       : t.str = s.str
  cs        : t.line.cs = true
  clk       : t.line.clk = false
  bringUp   : i = .init → t.status.initDone = true ∧ readReg .shadow t = 0x80FF#16
  other     : i ≠ .init → t.status.initDone = s.status.initDone
    ∧ t.shadow = (framesOf s i).foldl (fun sh f => shadowAfter false f sh) s.shadow

/-- How many edges after the accepting one `BUSY` falls (R133, R142). -/
def commandEdges (s : State) (i : Instr) : Nat :=
  50 * (framesOf s i).length * Config.spiDiv + (if i = .init then Config.settleCycles else 0)

theorem framesOf_withHost (rest : List HostOp) : framesOf { s with host := rest } i = framesOf s i := by cases i <;> rfl

/-- An accepted command with a frame is about to send its first. -/
theorem acceptCommand_frameStart {fs : List Word} (b : Bool) (hne : fs ≠ []) : FrameStart (acceptCommand b fs s) := by
  cases fs with
  | nil => exact absurd rfl hne
  | cons => exact ⟨rfl, rfl, rfl, rfl⟩

/-- From acceptance to the closing edge of the last frame. -/
theorem accepted_list_run {fs : List Word} (b : Bool) (hne : fs ≠ []) :
    BusyRun (50 * fs.length * Config.spiDiv) (framesTrace fs s.line) (acceptCommand b fs s)
      (endOfList (listSent fs (acceptCommand b fs s))) := by
  have hdrop : (acceptCommand b fs s).seq.fq.drop (acceptCommand b fs s).seq.fi = fs := by
    cases fs with
    | nil => exact absurd rfl hne
    | cons => rfl
  simpa using list_run (acceptCommand_frameStart b hne) hdrop hne

/-- Outside a bring-up every frame of a list updates `SHADOW` alike (R107). -/
theorem shadowAfterList_false (fi : Nat) (ws : List Word) (sh : Shadow) :
    shadowAfterList false fi ws sh = ws.foldl (fun sh f => shadowAfter false f sh) sh := by
  induction ws generalizing fi sh with
  | nil => rfl
  | cons w ws ih => exact ih (fi + 1) _

/-- The bring-up list writes every field of `SHADOW`, so what it held before does not show (R107, R141). -/
theorem shadowAfterList_initFrames (sh : Shadow) : shadowAfterList true 0 initFrames sh =
    { intensity := 15#4, scanLimit := 7#3, normalOp := true, test := false, known := true } := by
  rw [initFrames_words]
  obtain ⟨intensity, scanLimit, normalOp, test, known⟩ := sh
  rfl

theorem shadowWord_after_initFrames (sh : Shadow) : shadowWord (shadowAfterList true 0 initFrames sh) = 0x80FF#16 := by
  rw [shadowAfterList_initFrames]
  decide

/-- A list of frames leaves idle lines idle (R106). -/
theorem levelsAfter_frames_idle {l : Lines} (ws : List Word) (hcs : l.cs = true) (hclk : l.clk = false) :
    (ws.foldl (fun l w => levelsAfter w l 50) l).cs = true ∧ (ws.foldl (fun l w => levelsAfter w l 50) l).clk = false := by
  induction ws generalizing l with
  | nil => exact ⟨hcs, hclk⟩
  | cons w ws ih =>
    rw [List.foldl_cons, levelsAfter_frame w hclk]
    exact ih rfl rfl

/-- `INIT` runs through its list and the settle delay (R140, R142). -/
theorem init_run (hcs : s.line.cs = true) (hclk : s.line.clk = false) :
    ∃ t, BusyRun (commandEdges s .init) (framesTrace initFrames s.line) (acceptCommand true initFrames s) t
      ∧ CommandDone s .init t := by
  have hne : initFrames ≠ [] := by simp [initFrames]
  obtain ⟨k, hsettle⟩ := settle_run (s := listSent initFrames (acceptCommand true initFrames s)) rfl rfl
  have hrun := (accepted_list_run true hne).trans hsettle
  rw [List.append_nil] at hrun
  obtain ⟨hcs', hclk'⟩ := levelsAfter_frames_idle initFrames hcs hclk
  exact ⟨_, hrun, {
    busy := rfl
    mode := rfl
    result := rfl
    lastFrame := rfl
    str := rfl
    cs := hcs'
    clk := hclk'
    bringUp := fun _ => ⟨rfl, shadowWord_after_initFrames s.shadow⟩
    other := fun h => absurd rfl h }⟩

/-- The end of a list that is no bring-up leaves the block idle at once (R134). -/
theorem endOfList_of_not_init (h : s.seq.init = false) :
    endOfList s = { s with status := { s.status with busy := false }, seq := { s.seq with mode := .idle } } := by
  simp [endOfList, h]

/-- Any other command ends with its list; without a frame it is done when accepted (R131, R134). -/
theorem other_command_run (hi : i ≠ .init) (hb : s.status.busy = false) (hm : s.seq.mode = .idle)
    (hcs : s.line.cs = true) (hclk : s.line.clk = false) :
    ∃ t, BusyRun (commandEdges s i) (framesTrace (framesOf s i) s.line)
        (acceptCommand (isBringUp i) (framesOf s i) s) t ∧ CommandDone s i t := by
  have hbring : isBringUp i = false := eq_false_of_ne_true (mt isBringUp_eq_true_iff.mp hi)
  rw [hbring]
  cases hfs : framesOf s i with
  | nil =>
    refine ⟨acceptCommand false [] s, ?_, ?_⟩
    · simpa [commandEdges, hfs, hi, framesTrace] using BusyRun.refl (acceptCommand false [] s)
    · exact {
        busy := hb
        mode := hm
        result := rfl
        lastFrame := by rw [hfs]; rfl
        str := rfl
        cs := hcs
        clk := hclk
        bringUp := fun h => absurd h hi
        other := fun _ => ⟨rfl, by rw [hfs]; rfl⟩ }
  | cons w fs =>
    have hrun := accepted_list_run (s := s) (fs := w :: fs) false (by simp)
    rw [endOfList_of_not_init rfl] at hrun
    obtain ⟨hcs', hclk'⟩ := levelsAfter_frames_idle (w :: fs) hcs hclk
    refine ⟨_, by simpa only [commandEdges, hfs, hi, if_false, Nat.add_zero] using hrun, ?_⟩
    exact {
      busy := rfl
      mode := rfl
      result := rfl
      lastFrame := by rw [hfs]; rfl
      str := rfl
      cs := hcs'
      clk := hclk'
      bringUp := fun h => absurd h hi
      other := fun _ => ⟨rfl, by rw [hfs]; exact shadowAfterList_false 0 (w :: fs) s.shadow⟩ }

/-- A command accepted by an idle block runs until it is done, with its frames on the wire. -/
theorem command_run (i : Instr) (hb : s.status.busy = false) (hm : s.seq.mode = .idle)
    (hcs : s.line.cs = true) (hclk : s.line.clk = false) :
    ∃ t, BusyRun (commandEdges s i) (framesTrace (framesOf s i) s.line)
        (acceptCommand (isBringUp i) (framesOf s i) s) t ∧ CommandDone s i t := by
  by_cases hi : i = .init
  · subst hi
    exact init_run hcs hclk
  · exact other_command_run hi hb hm hcs hclk

theorem CommandDone.hosted {t : State} (h : CommandDone s i t) (host : List HostOp) (ovr : Bool) :
    CommandDone s i (hosted host ovr t) := { h with }

/-- Script and `OVR` of a just accepted command are the host's own. -/
theorem hosted_acceptCommand (rest : List HostOp) (b : Bool) (fs : List Word) (s : State) :
    hosted rest s.status.ovr (acceptCommand b fs s) = acceptCommand b fs { s with host := rest } := by
  cases fs <;> rfl

/-- `command_run` for one script. -/
theorem command_runsBusy (i : Instr) (hb : s.status.busy = false) (hm : s.seq.mode = .idle) (hcs : s.line.cs = true)
    (hclk : s.line.clk = false) {rest : List HostOp} (hfree : resetFree rest = true) :
    ∃ t, RunsBusy (commandEdges s i) (framesTrace (framesOf s i) s.line)
        (acceptCommand (isBringUp i) (framesOf s i) { s with host := rest }) t ∧ CommandDone s i t := by
  obtain ⟨t, hrun, hdone⟩ := command_run i hb hm hcs hclk
  obtain ⟨host, ovr, -, hruns⟩ := hrun rest s.status.ovr hfree
  rw [hosted_acceptCommand] at hruns
  exact ⟨_, hruns, hdone.hosted host ovr⟩

theorem step_of_accepted {w : Word} {rest : List HostOp} (h : s.host = .cycle (writePort .cmd w) :: rest)
    (hd : decode w = some i) (hok : inRange i = true) (hb : s.status.busy = false) (hm : s.seq.mode = .idle) :
    step s = .next (acceptCommand (isBringUp i) (framesOf s i) { s with host := rest }) := by
  rw [step_of_command h hd, hok, framesOf_withHost, hm]
  exact congrArg _ (issueCommand_of_ok (s := { s with host := rest }) hb)

theorem after_one_add {s t : State} (h : step s = .next t) (n : Nat) : after (1 + n) s = after n t := by
  rw [after_add, after_one h]
  rfl

/-- An edge of an idle block performs no micro-step (R135). -/
theorem microstepDue_of_idle (hm : s.seq.mode = .idle) : microstepDue s = false := by simp [microstepDue, hm]

/-- The edge that accepts a command adds nothing to the trace. -/
theorem wireTrace_one_add_of_idle {t : State} (hm : s.seq.mode = .idle) (h : step s = .next t) (n : Nat) :
    wireTrace (1 + n) s = wireTrace n t := by
  rw [wireTrace_add n (after_one h), wireTrace_one_still h (microstepDue_of_idle hm), List.nil_append]

/-- Settles O29: the accepting edge, and from there `command_runsBusy`, with the trace read by the receiver. -/
theorem commandFramesGoOutInOrder : Obligations.CommandFramesGoOutInOrder := by
  intro s w i rest hb hm hcs hclk hhost hfree hd hok F n
  have hfirst := step_of_accepted hhost hd hok hb hm
  obtain ⟨t, hruns, hdone⟩ := command_runsBusy i hb hm hcs hclk hfree
  have hn : n = 1 + commandEdges s i := Nat.add_assoc ..
  constructor
  · intro k hk hkn
    obtain ⟨j, rfl⟩ := Nat.exists_eq_add_of_le hk
    rw [after_one_add hfirst]
    exact hruns.busy j (by omega)
  · have hreaches : after n s = some t := by rw [hn, after_one_add hfirst, hruns.reaches]
    have hreceived : receive s.line [] (wireTrace n s) = F := by
      rw [hn, wireTrace_one_add_of_idle hm hfirst, hruns.trace, receive_framesTrace _ hcs hclk]
    exact ⟨t, hreaches, hdone.busy, hdone.mode, hdone.result, hreceived, hdone.lastFrame, hdone.str, hdone.cs,
      hdone.clk, hdone.bringUp, hdone.other⟩

end Sys2Proof.Machine
end

section
/-!
Command words field by field (30_encoding.md R81 to R87): the decoder as an `↔` in the word's fields, and the words that
the masks of R84 and R87 leave, written out in the same fields.
-/

namespace Sys2Proof

variable {w w' : Word} {i : Instr}

/-- `OP` of a command (R83). -/
def opcode : Instr → BitVec 4
  | .init => 1#4
  | .on => 2#4
  | .off => 3#4
  | .bright _ => 4#4
  | .scan _ => 5#4
  | .clear => 6#4
  | .char _ _ => 7#4
  | .str _ => 8#4

/-- The word holds the command's operands at their places in its pattern (R83). -/
def OperandsAt (w : Word) : Instr → Prop
  | .bright value => value = argField w
  | .scan limit => limit = argField w
  | .char place ch => place = placeField w ∧ ch = argField w
  | .str len => len = subField w
  | _ => True

/-- The decoder goes by the opcode alone and then takes that command's operand fields (R86). -/
theorem decode_eq_some_iff : decode w = some i ↔ opField w = opcode i ∧ OperandsAt w i := by
  constructor
  · unfold decode
    split_ifs with h1 h2 h3 h4 h5 h6 h7 h8 <;> rintro ⟨⟩
    · exact ⟨h1, trivial⟩
    · exact ⟨h2, trivial⟩
    · exact ⟨h3, trivial⟩
    · exact ⟨h4, rfl⟩
    · exact ⟨h5, rfl⟩
    · exact ⟨h6, trivial⟩
    · exact ⟨h7, rfl, rfl⟩
    · exact ⟨h8, rfl⟩
  · rintro ⟨hop, hargs⟩
    rw [decode, hop]
    cases i with
    | bright value => cases hargs; rfl
    | scan limit => cases hargs; rfl
    | char place ch => obtain ⟨rfl, rfl⟩ := hargs; rfl
    | str len => cases hargs; rfl
    | _ => rfl

theorem opField_encode (i : Instr) : opField (encode i) = opcode i := by
  cases i with
  | bright value => exact opField_append_byte 0x40#8 value
  | scan limit => exact opField_append_byte 0x50#8 limit
  | _ => simp [opcode]

theorem operandsAt_encode (i : Instr) : OperandsAt (encode i) i := by
  cases i with
  | bright value => exact (argField_append_byte 0x40#8 value).symm
  | scan limit => exact (argField_append_byte 0x50#8 limit).symm
  | char place ch => exact ⟨(placeField_encode_char place ch).symm, (argField_encode_char place ch).symm⟩
  | str len => exact (subField_encode_str len).symm
  | _ => trivial

theorem decode_encode (i : Instr) : decode (encode i) = some i :=
  decode_eq_some_iff.mpr ⟨opField_encode i, operandsAt_encode i⟩

@[simp] theorem extractLsb'_append_nibble_high (a b : BitVec 4) : (a ++ b : Byte).extractLsb' 4 4 = a :=
  BitVec.extractLsb'_append_eq_left

@[simp] theorem extractLsb'_append_nibble_low (a b : BitVec 4) : (a ++ b : Byte).extractLsb' 0 4 = b :=
  BitVec.extractLsb'_append_eq_right

/-- The three low bits of a byte whose bit 3 stands alone. -/
theorem extractLsb'_append_low_three (a : BitVec 4) (z : BitVec 1) (p : BitVec 3) :
    (a ++ (z ++ p : BitVec 4) : Byte).extractLsb' 0 3 = p := by revert a z p; decide

theorem append_fields (w : Word) : (opField w ++ subField w : Byte) ++ argField w = w := by
  have hhigh : (opField w ++ subField w : Byte) = w.extractLsb' 8 8 :=
    BitVec.extractLsb'_append_extractLsb'_eq_extractLsb' rfl
  rw [hhigh]
  exact append_extractLsb' w

/-- What a mask that keeps the opcode leaves of each field. -/
theorem and_fieldMask (w : Word) (subMask : BitVec 4) (argMask : Byte) :
    w &&& ((0xF#4 ++ subMask : Byte) ++ argMask) =
      (opField w ++ (subField w &&& subMask) : Byte) ++ (argField w &&& argMask) := by
  have hop : opField w &&& 0xF#4 = opField w := BitVec.and_allOnes
  have hhigh : (opField w ++ subField w : Byte) &&& (0xF#4 ++ subMask) = opField w ++ (subField w &&& subMask) := by
    rw [← hop, ← BitVec.and_append, hop]
  rw [← hhigh, ← and_append_bytes, append_fields]

theorem argField_and_ones (w : Word) : argField w &&& 0xFF#8 = argField w := BitVec.and_allOnes

theorem subField_and_ones (w : Word) : subField w &&& 0xF#4 = subField w := BitVec.and_allOnes

theorem placeField_eq_extractLsb'_subField (w : Word) : placeField w = (subField w).extractLsb' 0 3 := by
  ext k hk
  simp [placeField, subField, Nat.lt_succ_of_lt hk]

/-- Bits 11:8 without bit 11, which `CHAR` ignores (R84). -/
theorem subField_and_placeMask (w : Word) : subField w &&& 0x7#4 = 0#1 ++ placeField w := by
  rw [placeField_eq_extractLsb'_subField]
  generalize subField w = sub
  revert sub; decide

theorem and_opMask (w : Word) : w &&& 0xF000#16 = (opField w ++ 0x0#4 : Byte) ++ 0x00#8 := by
  simpa using and_fieldMask w 0x0#4 0x00#8

theorem and_opArgMask (w : Word) : w &&& 0xF0FF#16 = (opField w ++ 0x0#4 : Byte) ++ argField w := by
  simpa [argField_and_ones] using and_fieldMask w 0x0#4 0xFF#8

theorem and_opSubMask (w : Word) : w &&& 0xFF00#16 = (opField w ++ subField w : Byte) ++ 0x00#8 := by
  simpa [subField_and_ones] using and_fieldMask w 0xF#4 0x00#8

theorem and_charMask (w : Word) :
    w &&& 0xF7FF#16 = (opField w ++ (0#1 ++ placeField w : BitVec 4) : Byte) ++ argField w := by
  simpa [argField_and_ones, subField_and_placeMask] using and_fieldMask w 0x7#4 0xFF#8

/-- Every command uses the opcode bits. -/
theorem opField_and_usedBits (w : Word) (i : Instr) : opField (w &&& usedBits i) = opField w := by
  cases i with
  | bright value => simp [usedBits, and_opArgMask]
  | scan limit => simp [usedBits, and_opArgMask]
  | char place ch => simp [usedBits, and_charMask]
  | str len => simp [usedBits, and_opSubMask]
  | _ => simp [usedBits, and_opMask]

/-- A command's used bits hold all of its operands. -/
theorem operandsAt_and_usedBits : OperandsAt (w &&& usedBits i) i ↔ OperandsAt w i := by
  cases i with
  | bright value => simp [OperandsAt, usedBits, and_opArgMask]
  | scan limit => simp [OperandsAt, usedBits, and_opArgMask]
  | char place ch =>
    rw [OperandsAt, OperandsAt, usedBits, and_charMask, placeField_append_byte, extractLsb'_append_low_three,
      argField_append_byte]
  | str len => simp [OperandsAt, usedBits, and_opSubMask, subField_append_byte]
  | _ => exact Iff.rfl

/-- Whether a word is the command `i` shows in the bits `i` uses (R84). -/
theorem decode_and_usedBits : decode (w &&& usedBits i) = some i ↔ decode w = some i := by
  rw [decode_eq_some_iff, decode_eq_some_iff, opField_and_usedBits, operandsAt_and_usedBits]

theorem decode_of_usedBits_eq (h : decode w = some i) (hused : w' &&& usedBits i = w &&& usedBits i) :
    decode w' = some i := by
  rw [← decode_and_usedBits, hused, decode_and_usedBits]
  exact h

/-- Masking out what a command does not use gives the word the encoder writes (R84, R87). -/
theorem encode_eq_and_usedBits (h : decode w = some i) : encode i = w &&& usedBits i := by
  obtain ⟨hop, hargs⟩ := decode_eq_some_iff.mp h
  cases i with
  | bright value => cases hargs; rw [usedBits, and_opArgMask, hop, opcode, encode]; rfl
  | scan limit => cases hargs; rw [usedBits, and_opArgMask, hop, opcode, encode]; rfl
  | char place ch =>
    obtain ⟨rfl, rfl⟩ := hargs
    have hhigh : ∀ p : BitVec 3, (0x7#4 ++ 0#1 ++ p : Byte) = 0x7#4 ++ (0#1 ++ p : BitVec 4) := by decide
    rw [usedBits, and_charMask, hop, opcode, encode_char, hhigh]
  | str len => cases hargs; rw [usedBits, and_opSubMask, hop, encode_str, opcode]
  | _ => rw [usedBits, and_opMask, hop]; rfl

/-- Settles O1: a command's word holds its opcode and operands, and a word's used bits are the word of what it decodes
to. The operands' types say already that they fit. -/
theorem decodeAndEncodeAgree : Obligations.DecodeAndEncodeAgree :=
  ⟨fun i _ => decode_encode i, fun _ _ h => encode_eq_and_usedBits h⟩

/-- The match value of R87 is the opcode with zeros below it. -/
theorem and_opMask_eq_iff {op : BitVec 4} : w &&& 0xF000#16 = (op ++ 0x0#4 : Byte) ++ 0x00#8 ↔ opField w = op := by
  rw [and_opMask]
  constructor
  · intro h
    simpa using congrArg opField h
  · rintro rfl
    rfl

/-- `decode_eq_some_iff` with the opcode selected as in R87. -/
theorem decode_eq_some_iff_match :
    decode w = some i ↔ w &&& 0xF000#16 = (opcode i ++ 0x0#4 : Byte) ++ 0x00#8 ∧ OperandsAt w i := by
  rw [decode_eq_some_iff, and_opMask_eq_iff]

/-- Settles O2: each clause is `decode_eq_some_iff_match` at its command, with the match value worked out. -/
theorem commandsAreSelectedByMatchAndMask : Obligations.CommandsAreSelectedByMatchAndMask := by
  intro w
  simp only [decode_eq_some_iff_match, opcode, OperandsAt, and_true]
  exact ⟨Iff.rfl, Iff.rfl, Iff.rfl, fun _ => Iff.rfl, fun _ => Iff.rfl, Iff.rfl, fun _ _ => Iff.rfl,
    fun _ => Iff.rfl⟩

end Sys2Proof
end

section
/-!
The assembler's numbers as command words (30_encoding.md R88).
-/

namespace Sys2Proof

variable {a : AsmCmd}

/-- A number split at 256 is two bytes side by side. -/
theorem ofNat_eq_append_bytes (high : Nat) {low : Nat} (h : low < 256) :
    BitVec.ofNat 16 (high * 256 + low) = (BitVec.ofNat 8 high ++ BitVec.ofNat 8 low : Word) := by
  apply BitVec.eq_of_toNat_eq
  rw [BitVec.toNat_append, ← Nat.shiftLeft_add_eq_or_of_lt (BitVec.isLt _), Nat.shiftLeft_eq]
  simp only [BitVec.toNat_ofNat]
  omega

theorem asmWord_eq_none_iff : asmWord a = none ↔ a.wellFormed = false := by simp [asmWord]

/-- R88's arithmetic puts each operand into its field, because it is within its brackets. -/
theorem asmWord_of_wellFormed (h : a.wellFormed = true) : asmWord a = (assemble a).map encode := by
  rw [asmWord, assemble.eq_def, if_pos h, if_pos h]
  cases a with
  | bright value =>
    have hvalue : value ≤ 255 := of_decide_eq_true h
    exact congrArg some (ofNat_eq_append_bytes 0x40 (by omega))
  | scan limit =>
    have hlimit : limit ≤ 255 := of_decide_eq_true h
    exact congrArg some (ofNat_eq_append_bytes 0x50 (by omega))
  | char place ch =>
    obtain ⟨hplace, hch⟩ : place ≤ 7 ∧ ch ≤ 255 := by simpa [AsmCmd.wellFormed] using h
    have hhigh : ∀ p ≤ 7, BitVec.ofNat 8 (0x70 + p) = 0x7#4 ++ 0#1 ++ BitVec.ofNat 3 p := by decide
    have hnumber : asmNumber (.char place ch) = (0x70 + place) * 256 + ch := by simp only [asmNumber]; omega
    rw [hnumber, ofNat_eq_append_bytes _ (by omega), hhigh place hplace]
    rfl
  | str len =>
    have hlen : len ≤ 15 := of_decide_eq_true h
    have hword : ∀ n ≤ 15, BitVec.ofNat 16 (asmNumber (.str n)) = encode (.str (BitVec.ofNat 4 n)) := by decide
    exact congrArg some (hword len hlen)
  | _ => rfl

/-- Settles O5: by whether the operands are in their bracketed ranges. -/
theorem assemblerAgreesWithEncoder : Obligations.AssemblerAgreesWithEncoder := by
  refine ⟨fun a => ?_, fun a => asmWord_eq_none_iff⟩
  cases h : a.wellFormed with
  | false => simp [asmWord, assemble, h]
  | true => exact asmWord_of_wellFormed h

end Sys2Proof
end

section
/-!
What the write of a word to `CMD` takes from the word (30_encoding.md R84, R90; 41_control_commands.md R130).
-/

namespace Sys2Proof.Machine

variable {s : State} {w : Word} {i : Instr}

theorem writeCmd_of_decode (h : decode w = some i) (s : State) : writeCmd w s = exec i s := hostEdge_of_command h

/-- Settles O3: both words decode to one command, and the write is that command. -/
theorem unusedCommandBitsAreIgnored : Obligations.UnusedCommandBitsAreIgnored := by
  refine ⟨fun w w' i h hused => ?_, rfl, rfl, rfl, rfl, fun _ => rfl, fun _ => rfl, fun _ _ => rfl, fun _ => rfl⟩
  have h' : decode w' = some i := decode_of_usedBits_eq h hused
  exact ⟨h', fun s => (writeCmd_of_decode h' s).trans (writeCmd_of_decode h s).symm⟩

theorem writeCmd_of_out_of_range (hb : s.status.busy = false) (h : decode w = some i) (hrange : inRange i = false) :
    writeCmd w s = .next (rejectCommand errRange s) := by
  rw [writeCmd_of_decode h, exec_eq_issueCommand, hrange, issueCommand_of_not_ok hb]

theorem writeCmd_of_illegal (hb : s.status.busy = false) (h : decode w = none) :
    writeCmd w s = .next (rejectCommand errOpcode s) := by
  simp [writeCmd, h, issueIllegal, hb]

/-- Settles O4: the words are evaluated; the rejections are `writeCmd_of_out_of_range` and `writeCmd_of_illegal`. -/
theorem workedEncodingsDecode : Obligations.WorkedEncodingsDecode := by
  refine ⟨by decide, by decide, by decide, by decide, by decide, by decide, by decide, by decide, by decide, by decide,
    by decide, by decide, by decide, fun s hb => ⟨?_, ?_, ?_⟩⟩
  · exact writeCmd_of_out_of_range (i := .str 9#4) hb (by decide) (by decide)
  · exact writeCmd_of_illegal hb (by decide)
  · exact writeCmd_of_illegal hb (by decide)

end Sys2Proof.Machine
end

section
/-!
The line invariant: the levels inside a frame as a relation between the position and the lines, which each micro-step
moves on by one, and the idle levels between frames (40_spi_bitbang.md R103, R106).
-/

namespace Sys2Proof.Machine

variable {s t u : State} {w : Word}

/-- The levels of the lines in frame `w` when micro-step `ms` is next (R103). -/
structure LevelsAt (w : Word) (ms : Nat) (l : Lines) : Prop where
  cs  : l.cs = decide (ms = 0)
  clk : l.clk = decide (3 ≤ ms ∧ ms % 3 = 0)
  din : 2 ≤ ms → l.din = sentBit w ((ms - 2) / 3)

/-- A micro-step before the closing one is the `CS` fall, or one of the three of a bit. -/
theorem microstep_kinds {ms : Nat} (h : ms < 49) :
    ms = 0 ∨ ∃ j < 16, ms = 3 * j + 1 ∨ ms = 3 * j + 2 ∨ ms = 3 * j + 3 := by
  rcases Nat.eq_zero_or_pos ms with h0 | hpos
  · exact .inl h0
  · exact .inr ⟨(ms - 1) / 3, by omega, by omega⟩

/-- Every micro-step before the closing one leaves the levels of the next position. -/
theorem LevelsAt.microstepLines {ms : Nat} {l : Lines} (h : LevelsAt w ms l) (hms : ms < 49) :
    LevelsAt w (ms + 1) (microstepLines w ms l) := by
  obtain ⟨hcs, hclk, hdin⟩ := h
  rcases microstep_kinds hms with rfl | ⟨j, hj, rfl | rfl | rfl⟩
  · have hfall : Machine.microstepLines w 0 l = { l with cs := false } := rfl
    rw [hfall]
    exact ⟨rfl, by simpa using hclk, by omega⟩
  · rw [microstepLines_present w l hj]
    refine ⟨by simpa using hcs, hclk.trans (decide_eq_decide.mpr (by omega)), fun _ => ?_⟩
    have hbit : (3 * j + 1 + 1 - 2) / 3 = j := by omega
    rw [hbit]
  · rw [microstepLines_rise]
    refine ⟨by simpa using hcs, (decide_eq_true (by omega)).symm, fun _ => ?_⟩
    have hbit : (3 * j + 2 + 1 - 2) / 3 = (3 * j + 2 - 2) / 3 := by omega
    rw [hbit]
    exact hdin (by omega)
  · rw [microstepLines_fall]
    refine ⟨by simpa using hcs, (decide_eq_false (by omega)).symm, fun _ => ?_⟩
    have hbit : (3 * j + 3 + 1 - 2) / 3 = (3 * j + 3 - 2) / 3 := by omega
    rw [hbit]
    exact hdin (by omega)

/-- Between frames the invariant asks for idle lines and nothing more. -/
theorem LineInv.of_idle_lines (hms : s.seq.ms.val = 0) (hcs : s.line.cs = true) (hclk : s.line.clk = false) :
    LineInv s where
  still_ms := fun _ => hms
  cs_level := by simp [hcs, hms]
  clk_level := by simp [hclk, hms]
  din_level := by omega

theorem LineInv.idle_cs (hs : LineInv s) (hms : s.seq.ms.val = 0) : s.line.cs = true := by simp [hs.cs_level, hms]

theorem LineInv.idle_clk (hs : LineInv s) (hms : s.seq.ms.val = 0) : s.line.clk = false := by simp [hs.clk_level, hms]

theorem LineInv.levelsAt (hs : LineInv s) (hrun : s.seq.mode = .run) (hw : s.seq.fq[s.seq.fi]? = some w) :
    LevelsAt w s.seq.ms.val s.line := ⟨hs.cs_level, hs.clk_level, fun hms => hs.din_level w hrun hms hw⟩

theorem LineInv.of_levelsAt (hrun : s.seq.mode = .run) (hw : s.seq.fq[s.seq.fi]? = some w)
    (h : LevelsAt w s.seq.ms.val s.line) : LineInv s where
  still_ms := fun hne => absurd hrun hne
  cs_level := h.cs
  clk_level := h.clk
  din_level := fun v _ hms hv => by
    obtain rfl : w = v := Option.some.inj (hw.symm.trans hv)
    exact h.din hms

theorem lineInv_resetEdge (rest : List HostOp) : LineInv (resetEdge rest) := .of_idle_lines rfl rfl rfl

theorem LineInv.withHost (hs : LineInv s) (rest : List HostOp) : LineInv { s with host := rest } := { hs with }

theorem acceptCommand_ms_of_zero (b : Bool) (fs : List Word) (h : s.seq.ms.val = 0) :
    (acceptCommand b fs s).seq.ms.val = 0 := by
  cases fs with
  | nil => exact h
  | cons w fs => rfl

/-- The host's access moves no line; a command that it starts finds them idle, because the block was. -/
theorem LineInv.hostChange (hs : LineInv s) (hctl : ControlInv s) (hc : HostChange s u) : LineInv u := by
  cases hc with
  | same => exact hs
  | dropped => exact { hs with }
  | rejected => exact { hs with }
  | accepted idle i =>
    have hms : s.seq.ms.val = 0 := hs.still_ms (by simp [hctl.idle_of_not_busy idle])
    exact .of_idle_lines (acceptCommand_ms_of_zero _ _ hms) (by simpa using hs.idle_cs hms)
      (by simpa using hs.idle_clk hms)
  | statusWritten => exact { hs with }
  | bufferWritten => exact { hs with }

/-- A micro-step inside the frame moves the levels on; the closing one leaves the lines idle. -/
theorem LineInv.slotEnd (hs : LineInv s) (hrun : s.seq.mode = .run) (hw : s.seq.fq[s.seq.fi]? = some w) :
    LineInv (slotEnd w s) := by
  have hlt := s.seq.ms.isLt
  by_cases h : s.seq.ms.val < 49
  · rw [slotEnd_inside w h]
    exact of_levelsAt hrun hw ((hs.levelsAt hrun hw).microstepLines h)
  · have h49 : s.seq.ms.val = 49 := by omega
    have hclk : s.line.clk = false := by simp [hs.clk_level, h49]
    by_cases hfi : s.seq.fi + 1 < s.seq.fq.length
    · rw [slotEnd_next w h49 hfi]
      exact of_idle_lines rfl rfl hclk
    · rw [slotEnd_last w h49 hfi]
      exact of_idle_lines (by rw [endOfList_ms]; rfl) (by rw [endOfList_line]; rfl) (by rwa [endOfList_line])

theorem settleEdge_ms (s : State) : (settleEdge s).seq.ms = s.seq.ms := by unfold settleEdge; split <;> rfl

theorem LineInv.seqChange (hs : LineInv s) (hq : SeqChange s.seq.mode s t) : LineInv t := by
  cases hq with
  | still => exact hs
  | counted => exact { hs with }
  | slotEnded hrun _ w hw => exact hs.slotEnd hrun hw
  | settled hset =>
    have hms : s.seq.ms.val = 0 := hs.still_ms (by simp [hset])
    exact .of_idle_lines (by rwa [settleEdge_ms]) (by simpa using hs.idle_cs hms) (by simpa using hs.idle_clk hms)

/-- Settles O49: the host's access keeps the invariant, and then the sequencer's step does. -/
theorem stepKeepsLineInv : Obligations.StepKeepsLineInv := by
  intro s t hctl hs h
  obtain rfl | ⟨u, hc, hq⟩ := hctl.step_cases h
  · exact lineInv_resetEdge _
  · have hu : LineInv u := (hs.withHost _).hostChange (hctl.withHost _) hc
    obtain rfl | hq := hq
    · exact hu
    · exact hu.seqChange hq

end Sys2Proof.Machine
end

section
/-!
The sixteen samples of a frame's trace, and the word of sixteen bits as a sum (40_spi_bitbang.md R102, R103, R110).
-/

namespace Sys2Proof.Machine

variable {l prev last : Lines}

/-- One sample comes from the three micro-steps of a bit. -/
theorem samples_bit (hprev : prev.clk = false) (b : Bool) (rest : List Lines) :
    samples prev ({ cs := false, clk := false, din := b } :: { cs := false, clk := true, din := b }
      :: { cs := false, clk := false, din := b } :: rest)
    = b :: samples { cs := false, clk := false, din := b } rest := by
  simp [samples, hprev]

/-- From bit `j` of a frame on, the next `n` bits are sampled, and the frame's last triple adds none. -/
theorem samples_bits (w : Word) (hclk : l.clk = false) (hlast : last.clk = false) (n : Nat) {j : Nat}
    (hj : j + n ≤ 16) (hprev : prev.clk = false) :
    samples prev (tracePart w l (3 * j + 1) (3 * n) ++ [last]) = (List.range' j n).map (sentBit w) := by
  induction n generalizing j prev with
  | zero => simp [tracePart, samples, hlast]
  | succ n ih =>
    rw [tracePart_bit w hclk (by omega), List.cons_append, List.cons_append, List.cons_append, samples_bit hprev,
      ih (by omega) rfl, List.range'_succ, List.map_cons]

/-- From idle levels a frame's samples are its sixteen bits, bit 15 first (R102). -/
theorem samples_frameTrace (w : Word) (hclk : l.clk = false) :
    samples l (frameTrace w l) = (List.range 16).map (sentBit w) := by
  have hfall : (levelsAfter w l 1).clk = false := hclk
  have hclose : (levelsAfter w l 50).clk = false := by rw [levelsAfter_frame w hclk]
  calc samples l (frameTrace w l)
      = samples (levelsAfter w l 1) (tracePart w l 1 48 ++ [levelsAfter w l 50]) := by
        simp [frameTrace_eq, samples, hclk, hfall]
    _ = (List.range 16).map (sentBit w) := samples_bits w hclk hclose 16 (j := 0) le_rfl hfall

/-- The binary number `a` with the bits written behind it. -/
def appendBits (a : Nat) (bits : List Bool) : Nat := bits.foldl (fun n b => 2 * n + b.toNat) a

theorem wordOfBits_eq_ofNat (bits : List Bool) : wordOfBits bits = BitVec.ofNat 16 (appendBits 0 bits) := rfl

theorem appendBits_eq_sum (a : Nat) (bits : List Bool) :
    appendBits a bits = a * 2 ^ bits.length
      + ((List.range bits.length).map fun j => (bits.getD j false).toNat * 2 ^ (bits.length - 1 - j)).sum := by
  induction bits generalizing a with
  | nil => simp [appendBits]
  | cons b bits ih =>
    have hexp : ∀ j, bits.length - 1 - j = bits.length - (j + 1) := by omega
    have hcons : appendBits a (b :: bits) = appendBits (2 * a + b.toNat) bits := rfl
    rw [hcons, ih]
    simp only [List.length_cons, List.range_succ_eq_map, List.map_cons, List.map_map, List.sum_cons, Function.comp_def,
      List.getD_cons_zero, List.getD_cons_succ, Nat.add_sub_cancel, Nat.sub_zero, Nat.succ_eq_add_one, hexp]
    ring

theorem appendBits_lt (a : Nat) (bits : List Bool) : appendBits a bits < (a + 1) * 2 ^ bits.length := by
  induction bits generalizing a with
  | nil => simp [appendBits]
  | cons b bits ih =>
    have hb : b.toNat ≤ 1 := Bool.toNat_le b
    calc appendBits (2 * a + b.toNat) bits < (2 * a + b.toNat + 1) * 2 ^ bits.length := ih _
      _ ≤ (2 * (a + 1)) * 2 ^ bits.length := Nat.mul_le_mul_right _ (by omega)
      _ = (a + 1) * 2 ^ (b :: bits).length := by rw [List.length_cons, pow_succ]; ring

/-- Settles O26: the samples and the receiver take one bit from each three micro-steps, and sixteen bits fit a word. -/
theorem frameTraceDecodesToTheFrame : Obligations.FrameTraceDecodesToTheFrame := by
  refine ⟨fun w l hcs hclk => ⟨?_, samples_frameTrace w hclk, ?_⟩, fun bits hlen => ?_⟩
  · rw [frameTrace, List.length_map, List.length_range]
  · simpa [receive] using receive_frameTrace w hcs hclk []
  · have hfits : appendBits 0 bits < 2 ^ 16 := by simpa [hlen] using appendBits_lt 0 bits
    calc (wordOfBits bits).toNat
        = appendBits 0 bits := by rw [wordOfBits_eq_ofNat, BitVec.toNat_ofNat, Nat.mod_eq_of_lt hfits]
      _ = ((List.range 16).map fun j => (bits.getD j false).toNat * 2 ^ (15 - j)).sum := by
        rw [appendBits_eq_sum, hlen, Nat.zero_mul, Nat.zero_add]

end Sys2Proof.Machine
end

section
/-!
A slot and a frame for one given host (40_spi_bitbang.md R101, R103, R107; 41_control_commands.md R133): `slot_run` and
`frame_run` from the state with the script and the `OVR` it holds.
-/

namespace Sys2Proof.Machine

variable {s : State} {w : Word}

/-- A run for every host is a run for the script and the `OVR` that the state holds. -/
theorem BusyRun.runsBusy {n : Nat} {tr : List Lines} {t : State} (h : BusyRun n tr s t)
    (hfree : resetFree s.host = true) : ∃ host ovr, RunsBusy n tr s (hosted host ovr t) := by
  obtain ⟨host, ovr, -, hruns⟩ := h s.host s.status.ovr hfree
  exact ⟨host, ovr, hruns⟩

/-- Settles O27: the count inside a slot, and the slot. -/
theorem microstepTakesOneSlot : Obligations.MicrostepTakesOneSlot := by
  intro s w hrun hb hdiv hw hfree
  constructor
  · intro n hn
    obtain ⟨_, _, hcount⟩ := (slot_count_run hrun hb hdiv hn).runsBusy hfree
    exact ⟨_, hcount.reaches, rfl, rfl⟩
  · obtain ⟨_, _, hslot⟩ := (slot_run hrun hb hdiv hw).runsBusy hfree
    have hline : (slotEnd w s).line = microstepLines w s.seq.ms.val s.line := slotEnd_line w s
    refine ⟨_, hslot.reaches, hline, ?_, slotEnd_str w s, slotEnd_result w s⟩
    rw [hslot.trace, hosted_line, hline]

/-- Settles O28: the fifty slots of the frame, and what its last micro-step records. -/
theorem frameGoesOutWhole : Obligations.FrameGoesOutWhole := by
  intro s w hrun hb hms hdiv hw hfree
  have hstart : FrameStart s := ⟨hrun, hb, Fin.ext hms, hdiv⟩
  obtain ⟨_, _, hframe⟩ := (frame_run hstart hw).runsBusy hfree
  refine ⟨_, hframe.reaches, hframe.trace, slotEnd_lastFrame w (midFrame w 49 s), slotEnd_shadow w (midFrame w 49 s),
    slotEnd_str w (midFrame w 49 s), slotEnd_result w (midFrame w 49 s), fun hnext => ?_⟩
  have hseq : { s.seq with ms := 0, div := 0, fi := s.seq.fi + 1 } = { s.seq with fi := s.seq.fi + 1 } := by
    rw [← hstart.ms, ← hdiv]
  rw [slotEnd_next w (s := midFrame w 49 s) rfl hnext]
  exact ⟨hb, hseq⟩

/-- The data bits that `SHADOW` takes are the frame's own low bits. -/
theorem dataByte_extractLsb'_zero (w : Word) {n : Nat} (hn : n ≤ 8) :
    (dataByte w).extractLsb' 0 n = w.extractLsb' 0 n := by
  ext i hi
  have h8 : i < 8 := by omega
  simp [dataByte, h8]

theorem dataByte_getLsbD_zero (w : Word) : (dataByte w).getLsbD 0 = w.getLsbD 0 := by simp [dataByte]

/-- Settles O33: the closing micro-step raises `CS`, and `SHADOW` is `shadowAfter`, field by field. -/
theorem closingAFrameRecordsIt : Obligations.ClosingAFrameRecordsIt := by
  intro s w hms
  have hline : (slotEnd w s).line = { s.line with cs := true } := by rw [slotEnd_line, hms]; rfl
  have hlast : (slotEnd w s).lastFrame = w := by rw [slotEnd_lastFrame, if_pos hms]
  have hshadow : (slotEnd w s).shadow = shadowAfter (s.seq.init && decide (s.seq.fi = 3)) w s.shadow := by
    rw [slotEnd_shadow, if_pos hms]
  refine ⟨hline, hlast, ?_⟩
  rw [hshadow, ← dataByte_extractLsb'_zero w (n := 4) (by omega), ← dataByte_extractLsb'_zero w (n := 3) (by omega),
    ← dataByte_getLsbD_zero w]
  exact ⟨rfl, rfl, rfl, rfl, by simp [shadowAfter]⟩

end Sys2Proof.Machine
end

section
/-!
A command word at the edge of its write (41_control_commands.md R130 to R132; 60_exceptions.md R221 to R224): dropped,
rejected, or accepted with its row of the frame table.
-/

namespace Sys2Proof.Machine

variable {s : State} {w : Word} {i : Instr} {fs : List Word}

/-- A busy block drops every word, legal or not (R223). -/
theorem writeCmd_of_busy (hb : s.status.busy = true) (w : Word) : writeCmd w s = .next (dropWrite s) := by
  cases hd : decode w with
  | none => simp [writeCmd, hd, issueIllegal, hb]
  | some i => rw [writeCmd_of_decode hd, exec_eq_issueCommand, issueCommand_of_busy hb]

theorem exec_of_in_range (hb : s.status.busy = false) (hok : inRange i = true) :
    exec i s = .next (acceptCommand (isBringUp i) (framesOf s i) s) := by
  rw [exec_eq_issueCommand, hok, issueCommand_of_ok hb]

theorem exec_of_out_of_range (hb : s.status.busy = false) (hrange : inRange i = false) :
    exec i s = .next (rejectCommand errRange s) := by
  rw [exec_eq_issueCommand, hrange, issueCommand_of_not_ok hb]

/-- The illegal opcodes are 0 and 9 to 15 (R85, R86). -/
theorem decode_eq_none_iff : decode w = none ↔ opField w = 0#4 ∨ 9 ≤ (opField w).toNat := by
  simp only [decode, ite_eq_iff, reduceCtorEq, and_false, false_or, and_true]
  generalize opField w = op
  revert op; decide

/-- Only `BRIGHT`, `SCAN` and `STR` have a range to leave (R130). -/
theorem inRange_eq_false_iff : inRange i = false ↔
    (∃ v, i = .bright v ∧ 15 < v.toNat) ∨ (∃ v, i = .scan v ∧ 7 < v.toNat) ∨ (∃ n, i = .str n ∧ 8 < n.toNat) := by
  cases i <;> simp [inRange]

/-- Settles O7: the outcomes by `BUSY`, the decoder and the range check, and which words and operands those last two
refuse. -/
theorem commandWriteHasOneOutcome : Obligations.CommandWriteHasOneOutcome := fun w s =>
  ⟨fun hb => writeCmd_of_busy hb w, writeCmd_of_illegal, fun _ hb hd hrange => writeCmd_of_out_of_range hb hd hrange,
    fun _ hb hd hok => (writeCmd_of_decode hd s).trans (exec_of_in_range hb hok), decode_eq_none_iff,
    fun _ => inRange_eq_false_iff⟩

/-- Only the empty string has no frame (R131). -/
theorem framesOf_eq_nil_iff : framesOf s i = [] ↔ i = .str 0#4 := by
  cases i with
  | str len =>
    rw [← List.length_eq_zero_iff, framesOf, stringFrames_length, Instr.str.injEq]
    exact BitVec.toNat_inj (y := 0#4)
  | clear => simp [framesOf, clearFrames_eq]
  | _ => simp [framesOf, initFrames, onFrames, offFrames, brightFrames, scanFrames, charFrames]

theorem acceptCommand_of_ne_nil (b : Bool) (hne : fs ≠ []) : acceptCommand b fs s =
    { s with
      status := { s.status with result := resultOk, initDone := if b then false else s.status.initDone, busy := true }
      seq := { s.seq with mode := .run, fq := fs, fi := 0, ms := 0, div := 0, init := b } } := by
  cases fs with
  | nil => exact absurd rfl hne
  | cons w fs => exact acceptCommand_cons b fs s w

theorem isBringUp_eq_decide (i : Instr) : isBringUp i = decide (i = .init) := by
  rw [Bool.eq_iff_iff, isBringUp_eq_true_iff, decide_eq_true_iff]

/-- Settles O8: `acceptCommand` by whether the list is empty. -/
theorem acceptingACommand : Obligations.AcceptingACommand := by
  intro i s hb hok
  rw [exec_of_in_range hb hok]
  refine ⟨framesOf_eq_nil_iff, fun hnil => ?_, fun hne => ?_⟩
  · rw [hnil, isBringUp_eq_false_of_no_frames hnil]
    rfl
  · rw [acceptCommand_of_ne_nil _ hne, isBringUp_eq_decide]
    simp [resultOk]

/-- Settles O9: `INIT` is accepted with `initFrames`, written out. -/
theorem initExecutes : Obligations.InitExecutes := by
  intro s hb
  rw [exec_of_in_range hb rfl, framesOf, initFrames_words]
  rfl

/-- Settles O10: both are accepted, each with its one frame. -/
theorem onAndOffExecute : Obligations.OnAndOffExecute := fun _ hb =>
  ⟨exec_of_in_range (i := .on) hb rfl, exec_of_in_range (i := .off) hb rfl⟩

/-- Settles O11: by the range check. -/
theorem brightExecutes : Obligations.BrightExecutes := fun _ value hb =>
  ⟨fun hle => exec_of_in_range (i := .bright value) hb (decide_eq_true hle),
    fun hgt => exec_of_out_of_range (i := .bright value) hb (decide_eq_false (Nat.not_le_of_lt hgt))⟩

/-- Settles O12: by the range check. -/
theorem scanExecutes : Obligations.ScanExecutes := fun _ limit hb =>
  ⟨fun hle => exec_of_in_range (i := .scan limit) hb (decide_eq_true hle),
    fun hgt => exec_of_out_of_range (i := .scan limit) hb (decide_eq_false (Nat.not_le_of_lt hgt))⟩

/-- Settles O13: `CLEAR` is accepted with `clearFrames`, written out. -/
theorem clearExecutes : Obligations.ClearExecutes := by
  intro s hb
  rw [exec_of_in_range hb rfl, framesOf, clearFrames_eq]
  rfl

/-- Settles O14: `CHAR` is accepted at every place and code. -/
theorem charExecutes : Obligations.CharExecutes := fun _ place ch hb =>
  exec_of_in_range (i := .char place ch) hb rfl

/-- Frame `k` of the string loop with `j` characters to send carries character `j - 1 - k` (R201). -/
theorem stringFramesFrom_getElem? (chars : List Byte) (n : Nat) {j k : Nat} (hk : k < j) :
    (stringFramesFrom chars n j)[k]? =
      some (frame (regDigit (8 - n + (j - 1 - k))) (lookup (chars.getD (j - 1 - k) 0#8))) := by
  induction j generalizing k with
  | zero => exact absurd hk (Nat.not_lt_zero k)
  | succ j ih =>
    cases k with
    | zero => rfl
    | succ k =>
      have hidx : j + 1 - 1 - (k + 1) = j - 1 - k := by omega
      rw [stringFramesFrom, List.getElem?_cons_succ, ih (Nat.lt_of_succ_lt_succ hk), hidx]

/-- The last character goes to digit register 8, the one before it to 7, and so on (R201). -/
theorem stringFrames_getElem? (chars : List Byte) {n k : Nat} (hn : n ≤ 8) (hk : k < n) :
    (stringFrames chars n)[k]? = some (BitVec.ofNat 8 (8 - k) ++ lookup (chars.getD (n - 1 - k) 0#8)) := by
  have hreg : 8 - n + (n - 1 - k) + 1 = 8 - k := by omega
  rw [stringFrames, stringFramesFrom_getElem? chars n hk, frame, regDigit, hreg]

/-- Settles O15: a length in range is accepted with `stringFrames`, which is empty at 0; any other is rejected. -/
theorem strExecutes : Obligations.StrExecutes := by
  intro s len hb
  refine ⟨fun hpos hle => ?_, fun hzero => ?_, fun hgt => ?_⟩
  · have hok : inRange (.str len) = true := decide_eq_true hle
    have hne : framesOf s (.str len) ≠ [] := fun hnil => by
      obtain rfl : len = 0#4 := by simpa using framesOf_eq_nil_iff.mp hnil
      exact absurd hpos (by decide)
    refine ⟨framesOf s (.str len), ?_, stringFrames_length _ _, fun k hk => stringFrames_getElem? _ hle hk⟩
    rw [exec_of_in_range hb hok, acceptCommand_of_ne_nil _ hne]
    rfl
  · obtain rfl : len = 0#4 := BitVec.toNat_inj.mp hzero
    exact exec_of_in_range (i := .str 0#4) hb rfl
  · exact exec_of_out_of_range (i := .str len) hb (decide_eq_false (Nat.not_le_of_lt hgt))

end Sys2Proof.Machine
end

section
/-!
Single edges and short runs of the sequencer: an idle block (41_control_commands.md R133, R135), the settle delay of a
bring-up (R134, R142), and the edge at which `BUSY` falls (R130, R134; 60_exceptions.md R229).
-/

namespace Sys2Proof.Machine

variable {s : State} {w : Word}

/-- With the sequencer idle and no write, a step only moves the host's script on. -/
theorem step_of_idle_no_write (hm : s.seq.mode = .idle) (hr : (hostDrive s).rst = false)
    (hwe : (hostDrive s).hWe = false) : step s = .next { s with host := hostRest s } := by
  rw [step_of_no_write hr hwe, hm]
  rfl

/-- Settles O36: the sequencer does nothing, and the host's access writes none of the three. -/
theorem idleBlockHoldsTheLines : Obligations.IdleBlockHoldsTheLines := by
  intro s t hm hr h
  have hquiet : (hostDrive s).hWe = false → t = { s with host := hostRest s } := fun hwe => by
    simpa [step_of_idle_no_write hm hr hwe] using h.symm
  obtain ⟨hrst, -⟩ | ⟨-, u, -, hc, hq⟩ := step_cases h
  · simp [hr] at hrst
  · rw [hm] at hq
    cases hq with
    | still => exact ⟨hc.line_eq, hc.lastFrame_eq, hc.shadow_eq, hquiet⟩
    | counted m => cases m
    | slotEnded m => cases m
    | settled m => cases m

/-- The edge of a list's last micro-step closes the frame and ends the list (R133, R134). -/
theorem seqEdge_last (hrun : s.seq.mode = .run) (hms : s.seq.ms.val = 49) (hdiv : s.seq.div = Config.spiDiv - 1)
    (hw : s.seq.fq[s.seq.fi]? = some w) (hlast : s.seq.fi + 1 = s.seq.fq.length) :
    seqEdge s.seq.mode s = .next (endOfList (frameClosed w s)) := by
  rw [seqEdge_slotEnd hrun (by omega) hw, slotEnd_last w hms (by omega)]

/-- `seqEdge_last` as a run of the busy block. -/
theorem last_slot_run (hrun : s.seq.mode = .run) (hb : s.status.busy = true) (hms : s.seq.ms.val = 49)
    (hdiv : s.seq.div = Config.spiDiv - 1) (hw : s.seq.fq[s.seq.fi]? = some w)
    (hlast : s.seq.fi + 1 = s.seq.fq.length) :
    BusyRun 1 [{ s.line with cs := true }] s (endOfList (frameClosed w s)) := by
  simpa [hrun, hdiv, frameClosed] using BusyRun.single hb (seqEdge_last hrun hms hdiv hw hlast)

/-- The end of a bring-up's list and the first `k` edges of the settle delay (R134, R142). -/
theorem settle_begin_run (hb : s.status.busy = true) (hinit : s.seq.init = true) {k : Nat}
    (hk : k < Config.settleCycles) :
    BusyRun k [] (endOfList s) { s with seq := { s.seq with mode := .settle, settle := k } } := by
  have hend : endOfList s = { s with seq := { s.seq with mode := .settle, settle := 0 } } := by
    simp [endOfList, hinit, Nat.zero_lt_of_lt hk]
  rw [hend]
  exact settle_count_run (s := { s with seq := { s.seq with mode := .settle, settle := 0 } }) rfl hb rfl (by omega)

/-- Settles O34: the closing edge, and from there the settle delay up to edge `k` or to its end. -/
theorem bringUpEndsAfterTheSettleDelay : Obligations.BringUpEndsAfterTheSettleDelay := by
  intro s w hrun hb hinit hms hdiv hw hlast hclk hfree
  have hclose := last_slot_run hrun hb hms hdiv hw hlast
  have hline : (frameClosed w s).line = { cs := true, clk := false, din := s.line.din } := by
    rw [← hclk]
    rfl
  constructor
  · intro k hk hle
    obtain ⟨j, rfl⟩ := Nat.exists_eq_add_of_le hk
    obtain ⟨_, _, hruns⟩ := (hclose.trans
      (settle_begin_run (s := frameClosed w s) (k := j) hb hinit (by omega))).runsBusy hfree
    exact ⟨_, hruns.reaches, hb, rfl, hline⟩
  · obtain ⟨_, hsettle⟩ := settle_run (s := frameClosed w s) hb hinit
    obtain ⟨_, _, hruns⟩ := (hclose.trans hsettle).runsBusy hfree
    exact ⟨_, hruns.reaches, rfl, rfl, rfl, rfl, hline⟩

/-- A write to `CMD` of a busy block only sets `OVR`, and then the sequencer steps (R130, R223). -/
theorem step_of_dropped_command {rest : List HostOp} (h : s.host = .cycle (writePort .cmd w) :: rest)
    (hb : s.status.busy = true) : step s = seqEdge s.seq.mode (dropWrite { s with host := rest }) := by
  apply step_eq_seqEdge
  · rw [hostDrive_of_cycle h]; rfl
  · rw [hostDrive_of_cycle h, hostRest_of_cycle h]
    exact writeCmd_of_busy (s := { s with host := rest }) hb w

/-- Settles O35: the write is dropped, and the sequencer's step closes the frame and ends the list. -/
theorem writeAtTheFallOfBusyIsDropped : Obligations.WriteAtTheFallOfBusyIsDropped := by
  intro s f w rest hrun hb hinit hms hdiv hf hlast hhost
  have hedge := seqEdge_last (s := dropWrite { s with host := rest }) hrun hms hdiv hf hlast
  rw [endOfList_of_not_init (s := frameClosed f (dropWrite { s with host := rest })) hinit] at hedge
  exact ⟨_, (step_of_dropped_command hhost hb).trans hedge, rfl, rfl, rfl, rfl, rfl⟩

end Sys2Proof.Machine
end

section
/-!
What a receiver reads of a run that starts and ends between frames, so that such runs compose (40_spi_bitbang.md R110):
a command from its accepting edge on, an idle block, and a host that waits with `WAITIDLE` (30_encoding.md R89).
-/

namespace Sys2Proof.Machine

variable {s t u : State} {i : Instr} {rest : List HostOp}

/-- The receiver looks at the levels before a triple for their edges of `CS` and `CLK` only. -/
theorem receive_congr {l l' : Lines} (hcs : l.cs = l'.cs) (hclk : l.clk = l'.clk) (bits : List Bool)
    (tr : List Lines) : receive l bits tr = receive l' bits tr := by
  cases tr with
  | nil => rfl
  | cons x tr => simp only [receive, hcs, hclk]

/-- Between idle levels the receiver reads the frames sent and goes on with what comes after them. -/
theorem receive_framesTrace_append (ws : List Word) {l l' : Lines} (hcs : l.cs = true) (hclk : l.clk = false)
    (hcs' : l'.cs = true) (hclk' : l'.clk = false) (tr : List Lines) :
    receive l [] (framesTrace ws l ++ tr) = ws ++ receive l' [] tr := by
  induction ws generalizing l with
  | nil => exact receive_congr (hcs.trans hcs'.symm) (hclk.trans hclk'.symm) [] tr
  | cons w ws ih =>
    have hend := levelsAfter_frame w hclk
    rw [framesTrace, List.append_assoc, receive_frameTrace w hcs hclk, ih (by rw [hend]) (by rw [hend])]
    rfl

/-- The next `n` edges lead from `s` to `t`, and of these the receiver reads the frames `ws`, whatever follows. -/
structure Sends (n : Nat) (ws : List Word) (s t : State) : Prop where
  reaches  : after n s = some t
  received : ∀ tr, receive s.line [] (wireTrace n s ++ tr) = ws ++ receive t.line [] tr

theorem Sends.refl (s : State) : Sends 0 [] s s := ⟨rfl, fun _ => rfl⟩

theorem Sends.trans {m n : Nat} {ws ws' : List Word} (h : Sends m ws s u) (h' : Sends n ws' u t) :
    Sends (m + n) (ws ++ ws') s t where
  reaches := by rw [after_add, h.reaches]; exact h'.reaches
  received := fun tr => by
    rw [wireTrace_add n h.reaches, List.append_assoc, h.received, h'.received, List.append_assoc]

theorem Sends.receive_eq {n : Nat} {ws : List Word} (h : Sends n ws s t) :
    receive s.line [] (wireTrace n s) = ws := by simpa [receive] using h.received []

/-- An edge of an idle block sends nothing (R135). -/
theorem Sends.of_idle_step (hm : s.seq.mode = .idle) (h : step s = .next t) (hline : t.line = s.line) :
    Sends 1 [] s t where
  reaches := after_one h
  received := fun tr => by rw [wireTrace_one_still h (microstepDue_of_idle hm), hline]; rfl

/-- The block can take a command: it is idle, and its lines are. -/
structure ReadyForCommand (s : State) : Prop where
  busy : s.status.busy = false
  mode : s.seq.mode = .idle
  cs   : s.line.cs = true
  clk  : s.line.clk = false

theorem ReadyForCommand.withHost (h : ReadyForCommand s) (host : List HostOp) :
    ReadyForCommand { s with host := host } := { h with }

theorem CommandDone.ready (h : CommandDone s i t) : ReadyForCommand t := { h with }

/-- The host does nothing before the block is idle. -/
def WaitsForIdle (host : List HostOp) : Prop := host = [] ∨ ∃ rest, host = .waitIdle :: rest

theorem hostRest_of_waiting (hw : WaitsForIdle s.host) (hb : s.status.busy = true) : hostRest s = s.host := by
  obtain h | ⟨rest, h⟩ := hw
  · simp [hostRest, h]
  · rw [hostRest_of_waitIdle h, hb]; rfl

/-- The first edge of a busy run. -/
theorem RunsBusy.head {n : Nat} {tr : List Lines} (h : RunsBusy (n + 1) tr s t) :
    s.status.busy = true ∧ ∃ u, step s = .next u ∧ RunsBusy n (wireTrace n u) u t := by
  obtain ⟨hreaches, -, hbusy⟩ := h
  have hb : s.status.busy = true := by
    obtain ⟨v, hv, hb⟩ := hbusy 0 (Nat.succ_pos n)
    cases hv
    exact hb
  refine ⟨hb, ?_⟩
  simp only [after] at hreaches
  split at hreaches
  case h_1 u hu =>
    refine ⟨u, hu, hreaches, rfl, fun k hk => ?_⟩
    simpa [after, hu] using hbusy (k + 1) (Nat.succ_lt_succ hk)
  all_goals cases hreaches

/-- A host that waits for idle is where it was when the block becomes idle (R89). -/
theorem RunsBusy.host_eq {n : Nat} {tr : List Lines} (h : RunsBusy n tr s t) (hw : WaitsForIdle s.host) :
    t.host = s.host := by
  induction n generalizing s tr with
  | zero => cases h.reaches; rfl
  | succ n ih =>
    obtain ⟨hb, u, hu, hrest⟩ := h.head
    have hhost : u.host = s.host := (step_host hu).trans (hostRest_of_waiting hw hb)
    rw [← hhost]
    exact ih hrest (by rwa [hhost])

/-- A command issued to a ready block sends its frames; a host that waits for idle is still waiting when it is done
(R131 to R134). -/
theorem command_sends (h : ReadyForCommand s) (hhost : s.host = .cycle (writePort .cmd (encode i)) :: rest)
    (hfree : resetFree rest = true) (hok : inRange i = true) :
    ∃ t, Sends (1 + commandEdges s i) (framesOf s i) s t ∧ CommandDone s i t ∧ (WaitsForIdle rest → t.host = rest) := by
  obtain ⟨hb, hm, hcs, hclk⟩ := h
  obtain ⟨t, hruns, hdone⟩ := command_runsBusy i hb hm hcs hclk hfree
  have hfirst := step_of_accepted hhost (decode_encode i) hok hb hm
  have hline := acceptCommand_line (isBringUp i) (framesOf s i) { s with host := rest }
  have hstays : WaitsForIdle rest → t.host = rest := fun hwait => by
    simpa using hruns.host_eq (by simpa using hwait)
  refine ⟨t, (Sends.of_idle_step hm hfirst hline).trans ⟨hruns.reaches, fun tr => ?_⟩, hdone, hstays⟩
  rw [hruns.trace, hline]
  exact receive_framesTrace_append _ hcs hclk hdone.cs hdone.clk tr

/-- With the block idle `WAITIDLE` lets the script go on (R89). -/
theorem waitIdle_sends (h : ReadyForCommand s) (hhost : s.host = .waitIdle :: rest) :
    Sends 1 [] s { s with host := rest } := by
  have hdrive := hostDrive_of_waitIdle hhost
  have hstep := step_of_idle_no_write h.mode (by rw [hdrive]; rfl) (by rw [hdrive]; rfl)
  rw [hostRest_of_waitIdle hhost, h.busy] at hstep
  exact .of_idle_step h.mode hstep rfl

/-- An idle block whose script is over stays as it is. -/
theorem quiet_sends (hm : s.seq.mode = .idle) (hhost : s.host = []) (n : Nat) : Sends n [] s s := by
  have hdrive : hostDrive s = quietPort := by simp [hostDrive, hhost]
  have hrest : hostRest s = s.host := by simp [hostRest, hhost]
  have hstep := step_of_idle_no_write hm (by rw [hdrive]; rfl) (by rw [hdrive]; rfl)
  rw [hrest] at hstep
  induction n with
  | zero => exact .refl s
  | succ n ih => exact ih.trans (.of_idle_step hm hstep rfl)

end Sys2Proof.Machine
end

section
/-!
Commands of one frame (41_control_commands.md R145, R146, R150, R160; 43_display_commands.md R195): the field of
`SHADOW` that the frame's instruction byte names (40_spi_bitbang.md R107), and what such a command leaves when it is
done.
-/

namespace Sys2Proof.Machine

variable {s t : State} {i : Instr} {f : Word} {sh : Shadow} {rest : List HostOp}

theorem shadowAfter_intensity (v : Byte) (sh : Shadow) :
    shadowAfter false (frame regIntensity v) sh = { sh with intensity := v.extractLsb' 0 4 } := by
  simp [shadowAfter, regIntensity, regScanLimit, regShutdown, regDispTest]

theorem shadowAfter_scanLimit (v : Byte) (sh : Shadow) :
    shadowAfter false (frame regScanLimit v) sh = { sh with scanLimit := v.extractLsb' 0 3 } := by
  simp [shadowAfter, regIntensity, regScanLimit, regShutdown, regDispTest]

theorem shadowAfter_shutdown (v : Byte) (sh : Shadow) :
    shadowAfter false (frame regShutdown v) sh = { sh with normalOp := v.getLsbD 0 } := by
  simp [shadowAfter, regIntensity, regScanLimit, regShutdown, regDispTest]

/-- A digit register is none of the control registers (R104). -/
theorem regDigit_ne_control (p : BitVec 3) : regDigit p.toNat ≠ regIntensity ∧ regDigit p.toNat ≠ regScanLimit
    ∧ regDigit p.toNat ≠ regShutdown ∧ regDigit p.toNat ≠ regDispTest := by
  revert p; decide

/-- `SHADOW` keeps no digit. -/
theorem shadowAfter_digit (p : BitVec 3) (v : Byte) (sh : Shadow) :
    shadowAfter false (frame (regDigit p.toNat) v) sh = sh := by
  obtain ⟨hintensity, hscan, hshutdown, htest⟩ := regDigit_ne_control p
  simp [shadowAfter, hintensity, hscan, hshutdown, htest]

/-- Command `i`, issued in `s`, is in range, is no bring-up and sends the one frame `f`, which leaves `SHADOW` at
`sh`. -/
structure SendsOneFrame (s : State) (i : Instr) (f : Word) (sh : Shadow) : Prop where
  ok      : inRange i = true
  notInit : i ≠ .init
  frames  : framesOf s i = [f]
  shadow  : shadowAfter false f s.shadow = sh

theorem on_sendsOneFrame (s : State) : SendsOneFrame s .on 0x0C01#16 { s.shadow with normalOp := true } :=
  ⟨rfl, nofun, rfl, shadowAfter_shutdown 0x01#8 s.shadow⟩

theorem off_sendsOneFrame (s : State) : SendsOneFrame s .off 0x0C00#16 { s.shadow with normalOp := false } :=
  ⟨rfl, nofun, rfl, shadowAfter_shutdown 0x00#8 s.shadow⟩

theorem bright_sendsOneFrame (s : State) {v : Byte} (hv : v.toNat ≤ 15) :
    SendsOneFrame s (.bright v) (0x0A#8 ++ v) { s.shadow with intensity := v.extractLsb' 0 4 } :=
  ⟨decide_eq_true hv, nofun, rfl, shadowAfter_intensity v s.shadow⟩

theorem scan_sendsOneFrame (s : State) {v : Byte} (hv : v.toNat ≤ 7) :
    SendsOneFrame s (.scan v) (0x0B#8 ++ v) { s.shadow with scanLimit := v.extractLsb' 0 3 } :=
  ⟨decide_eq_true hv, nofun, rfl, shadowAfter_scanLimit v s.shadow⟩

theorem char_sendsOneFrame (s : State) (p : BitVec 3) (c : Byte) :
    SendsOneFrame s (.char p c) (BitVec.ofNat 8 (p.toNat + 1) ++ lookup c) s.shadow :=
  ⟨rfl, nofun, rfl, shadowAfter_digit p (lookup c) s.shadow⟩

theorem SendsOneFrame.commandEdges_eq (h : SendsOneFrame s i f sh) : commandEdges s i = 50 * Config.spiDiv := by
  simp [commandEdges, h.frames, h.notInit]

/-- `command_sends` for one frame. -/
theorem SendsOneFrame.sends (h : SendsOneFrame s i f sh) (hready : ReadyForCommand s)
    (hhost : s.host = .cycle (writePort .cmd (encode i)) :: rest) (hfree : resetFree rest = true) :
    ∃ t, Sends (1 + 50 * Config.spiDiv) [f] s t ∧ CommandDone s i t ∧ (WaitsForIdle rest → t.host = rest) := by
  rw [← h.commandEdges_eq, ← h.frames]
  exact command_sends hready hhost hfree h.ok

theorem SendsOneFrame.lastFrame_eq (h : SendsOneFrame s i f sh) (hdone : CommandDone s i t) : t.lastFrame = f := by
  rw [hdone.lastFrame, h.frames]
  rfl

theorem SendsOneFrame.shadow_eq (h : SendsOneFrame s i f sh) (hdone : CommandDone s i t) : t.shadow = sh := by
  obtain ⟨-, hshadow⟩ := hdone.other h.notInit
  rw [hshadow, h.frames]
  exact h.shadow

theorem status_eq_of_fields {st st' : Status} (hbusy : st.busy = st'.busy) (hdone : st.initDone = st'.initDone)
    (hovr : st.ovr = st'.ovr) (hresult : st.result = st'.result) : st = st' := by
  cases st
  cases st'
  simp_all

/-- Settles O30: each of the five forms is a `SendsOneFrame`. -/
theorem singleFrameCommandsComplete : Obligations.SingleFrameCommandsComplete := by
  intro s i f sh rest hb hm hcs hclk hhost hfree hform
  have hone : SendsOneFrame s i f sh := by
    rcases hform with ⟨rfl, rfl, rfl⟩ | ⟨rfl, rfl, rfl⟩ | ⟨v, rfl, hv, rfl, rfl⟩ | ⟨v, rfl, hv, rfl, rfl⟩
      | ⟨p, c, rfl, rfl, rfl⟩
    · exact on_sendsOneFrame s
    · exact off_sendsOneFrame s
    · exact bright_sendsOneFrame s hv
    · exact scan_sendsOneFrame s hv
    · exact char_sendsOneFrame s p c
  obtain ⟨t, hsends, hdone, -⟩ := hone.sends ⟨hb, hm, hcs, hclk⟩ hhost hfree
  obtain ⟨hinitDone, -⟩ := hdone.other hone.notInit
  have hstatus : t.status = { s.status with result := 0#4, ovr := t.status.ovr } :=
    status_eq_of_fields (hdone.busy.trans hb.symm) hinitDone rfl hdone.result
  exact ⟨t, hsends.reaches, hsends.receive_eq, hstatus, hone.lastFrame_eq hdone, hone.shadow_eq hdone, hdone.str,
    hdone.mode⟩

/-- Settles O32: `ON`, one read of `WAITIDLE` with the block idle again, `OFF`, and then nothing. -/
theorem onThenOffSendTwoFrames : Obligations.OnThenOffSendTwoFrames := by
  intro s hb hm hcs hclk hhost m
  obtain ⟨t₁, hon, hdone₁, hhost₁⟩ := (on_sendsOneFrame s).sends ⟨hb, hm, hcs, hclk⟩ hhost rfl
  have hready := hdone₁.ready
  have hwait := waitIdle_sends hready (hhost₁ (.inr ⟨_, rfl⟩))
  have hoffForm := off_sendsOneFrame { t₁ with host := [.cycle (writePort .cmd (encode .off))] }
  obtain ⟨t₂, hoff, hdone₂, hhost₂⟩ := hoffForm.sends (hready.withHost _) rfl rfl
  have hall := ((hon.trans hwait).trans hoff).trans (quiet_sends hdone₂.mode (hhost₂ (.inl rfl)) m)
  have hn : 1 + 50 * Config.spiDiv + 1 + (1 + 50 * Config.spiDiv) + m = 3 + 100 * Config.spiDiv + m := by omega
  rw [hn] at hall
  refine ⟨t₂, hall.reaches, hall.receive_eq, hdone₂.busy, hoffForm.lastFrame_eq hdone₂, ?_⟩
  rw [hoffForm.shadow_eq hdone₂]
  dsimp only
  rw [(on_sendsOneFrame s).shadow_eq hdone₁]

end Sys2Proof.Machine
end

section
/-!
The segment lookup (42_segment_rom.md R172 to R175) by the folded code: below the table, above it, or at entry `i`.
-/

namespace Sys2Proof.Machine

variable {size i : Nat} {rom : Nat → Byte} {c : Byte}

/-! ## Case folding -/

theorem fold_of_lower (hlo : 0x61 ≤ c.toNat) (hhi : c.toNat ≤ 0x7A) : fold c = c - 32#8 := by
  simp [fold, caseOffset, hlo, hhi]

theorem fold_of_not_lower (h : ¬ (0x61 ≤ c.toNat ∧ c.toNat ≤ 0x7A)) : fold c = c := if_neg h

theorem toNat_fold_of_lower (hlo : 0x61 ≤ c.toNat) (hhi : c.toNat ≤ 0x7A) : (fold c).toNat = c.toNat - 32 := by
  rw [fold_of_lower hlo hhi]
  exact BitVec.toNat_sub_of_le (BitVec.le_def.mpr (Nat.le_trans (by decide) hlo))

theorem toNat_fold (c : Byte) :
    (fold c).toNat = if 0x61 ≤ c.toNat ∧ c.toNat ≤ 0x7A then c.toNat - 32 else c.toNat := by
  split
  next h => exact toNat_fold_of_lower h.1 h.2
  next h => rw [fold_of_not_lower h]

/-- A folded code is no lowercase letter, so folding it again leaves it alone. -/
@[simp] theorem fold_fold (c : Byte) : fold (fold c) = fold c := by
  have hnot : ¬ (0x61 ≤ (fold c).toNat ∧ (fold c).toNat ≤ 0x7A) := by
    rw [toNat_fold]
    split <;> omega
  exact fold_of_not_lower hnot

/-! ## The lookup by the folded code -/

theorem lookupIn_of_below (h : (fold c).toNat < 45) : lookupIn size rom c = 0x00#8 := by
  have hindex : romIndex c < 0 := by simp only [romIndex, segOffset]; omega
  exact if_pos hindex

theorem lookupIn_of_above (h : 45 + size ≤ (fold c).toNat) : lookupIn size rom c = 0x00#8 := by
  have hindex : romIndex c ≥ size := by simp only [romIndex, segOffset]; omega
  have hnonneg : ¬ romIndex c < 0 := by omega
  exact (if_neg hnonneg).trans (if_pos hindex)

theorem lookupIn_of_entry (h : (fold c).toNat = 45 + i) (hi : i < size) : lookupIn size rom c = rom i := by
  have hindex : romIndex c = i := by simp only [romIndex, segOffset]; omega
  have hnonneg : ¬ (i : Int) < 0 := by omega
  have hinside : ¬ (i : Int) ≥ size := by omega
  simp only [lookupIn, hindex, if_neg hnonneg, if_neg hinside, Int.toNat_natCast]

@[simp] theorem romIndex_fold (c : Byte) : romIndex (fold c) = romIndex c := by
  rw [romIndex, fold_fold, romIndex]

/-- The lookup reads its code through `fold` only. -/
@[simp] theorem lookupIn_fold (size : Nat) (rom : Nat → Byte) (c : Byte) :
    lookupIn size rom (fold c) = lookupIn size rom c := by
  rw [lookupIn, romIndex_fold, lookupIn]

theorem lookupIn_of_lower (hlo : 0x61 ≤ c.toNat) (hhi : c.toNat ≤ 0x7A) :
    lookupIn size rom c = lookupIn size rom (c - 32#8) := by
  rw [← fold_of_lower hlo hhi, lookupIn_fold]

/-- Settles O40: the three places of the folded code, whose value is `toNat_fold`. -/
theorem lookupFollowsTheTable : Obligations.LookupFollowsTheTable := by
  refine ⟨fun size rom c => ?_, fun _ => rfl⟩
  dsimp only
  rw [← toNat_fold]
  exact ⟨lookupIn_of_below, lookupIn_of_above, fun hlo hhi => lookupIn_of_entry (by omega) (by omega)⟩

/-- Settles O41: each range has its folded code, and that its place in the table. -/
theorem lookupPartition : Obligations.LookupPartition := by
  intro size rom c hmin hmax
  refine ⟨fun hc => ?below, fun hlo hhi => ?asIs, fun hc => ?backquote, fun hlo hhi => ?lower, fun hc => ?above⟩
  case below =>
    have hfold : fold c = c := fold_of_not_lower (by omega)
    exact lookupIn_of_below (by rw [hfold]; omega)
  case asIs =>
    have hfold : fold c = c := fold_of_not_lower (by omega)
    exact lookupIn_of_entry (by rw [hfold]; omega) (by omega)
  case backquote =>
    have hfold : (fold c).toNat = 45 + 51 := by rw [hc]; decide
    split
    next hsize => exact lookupIn_of_entry hfold hsize
    next hsize => exact lookupIn_of_above (by omega)
  case lower =>
    have hfold : (fold c).toNat = c.toNat - 32 := toNat_fold_of_lower hlo hhi
    exact ⟨lookupIn_of_entry (by omega) (by omega), lookupIn_of_lower hlo hhi, by omega, by omega⟩
  case above =>
    have hfold : fold c = c := fold_of_not_lower (by omega)
    exact lookupIn_of_above (by rw [hfold]; omega)

/-- Letter `k` in lowercase folds to letter `k` in uppercase. -/
theorem fold_lowercase {k : Nat} (hk : k < 26) : fold (BitVec.ofNat 8 (0x61 + k)) = BitVec.ofNat 8 (0x41 + k) := by
  revert k; decide

/-- Letter `k` in uppercase is the code of entry `20 + k`. -/
theorem toNat_fold_uppercase {k : Nat} (hk : k < 26) :
    (fold (BitVec.ofNat 8 (0x41 + k))).toNat = 45 + (20 + k) := by
  revert k; decide

/-- Settles O42: both letters fold to the uppercase one, whose entry is in a ROM of 46 entries or more. -/
theorem lookupIgnoresCase : Obligations.LookupIgnoresCase := by
  intro k hk
  have hsize : 20 + k < Config.segRomSize := by simp only [Config.segRomSize]; omega
  refine ⟨?_, lookupIn_of_entry (toNat_fold_uppercase hk) hsize⟩
  rw [← fold_lowercase hk]
  exact (lookupIn_fold _ _ _).symm

/-- Settles O43: the nine codes folded, and each one's place in a table of 51. -/
theorem lookupCornerCases : Obligations.LookupCornerCases := by
  intro rom
  exact ⟨lookupIn_of_below (by decide), lookupIn_of_below (by decide), lookupIn_of_entry (by decide) (by decide),
    lookupIn_of_entry (by decide) (by decide), lookupIn_of_above (by decide),
    lookupIn_of_entry (by decide) (by decide), lookupIn_of_above (by decide), lookupIn_of_below (by decide),
    lookupIn_of_above (by decide)⟩

end Sys2Proof.Machine
end

section
/-!
Strings (43_display_commands.md R200 to R206): the place of each character's frame, and a string as the `CHAR` commands
of its characters.
-/

namespace Sys2Proof.Machine

variable {chars : List Byte} {n : Nat}

/-- Settles O44: `stringFrames_getElem?` read from the character's index instead of the frame's. -/
theorem stringFramePlacement : Obligations.StringFramePlacement := by
  refine fun chars n hn => ⟨stringFrames_length chars n, fun j hj => ?_⟩
  have hreg : 8 - (n - 1 - j) = 9 - n + j := by omega
  have hchar : n - 1 - (n - 1 - j) = j := by omega
  rw [stringFrames_getElem? chars hn (by omega), hreg, hchar]

/-- Each frame of a string is at some index `k`, and its instruction byte is `8 - k` (R201). -/
theorem instrByte_of_mem_stringFrames {f : Word} (hn : n ≤ 8) (hf : f ∈ stringFrames chars n) :
    ∃ k < n, (instrByte f).toNat = 8 - k := by
  obtain ⟨k, hget⟩ := List.mem_iff_getElem?.mp hf
  obtain ⟨hlen, -⟩ := List.getElem?_eq_some_iff.mp hget
  have hk : k < n := by rwa [stringFrames_length] at hlen
  obtain rfl := Option.some.inj ((stringFrames_getElem? chars hn hk).symm.trans hget)
  refine ⟨k, hk, ?_⟩
  rw [instrByte, extractLsb'_high_append, BitVec.toNat_ofNat]
  exact Nat.mod_eq_of_lt (by omega)

/-- Settles O45: frame `k` of `n` has register `8 - k`, and `k < n`. -/
theorem stringLeavesOtherPlacesAlone : Obligations.StringLeavesOtherPlacesAlone := by
  intro chars n f hn hf
  obtain ⟨k, hk, hreg⟩ := instrByte_of_mem_stringFrames hn hf
  rw [instrByte] at hreg
  omega

theorem charFrames_ofNat {place : Nat} (h : place < 8) (ch : Byte) :
    charFrames (BitVec.ofNat 3 place) ch = [frame (regDigit place) (lookup ch)] := by
  rw [charFrames, BitVec.toNat_ofNat, Nat.mod_eq_of_lt h]

/-- The string loop with `j` characters to send is the `CHAR` frames of characters `j - 1` down to 0. -/
theorem stringFramesFrom_eq_flatMap_charFrames {j : Nat} (hn : n ≤ 8) (hj : j ≤ n) :
    stringFramesFrom chars n j = (List.range j).reverse.flatMap fun k =>
      charFrames (BitVec.ofNat 3 (8 - n + k)) (chars.getD k 0#8) := by
  induction j with
  | zero => rfl
  | succ j ih =>
    rw [stringFramesFrom, ih (Nat.le_of_succ_le hj), List.range_succ, List.reverse_concat, List.flatMap_cons,
      charFrames_ofNat (by omega)]
    rfl

/-- Settles O46: the string loop at all `n` characters. -/
theorem stringEqualsItsCharacters : Obligations.StringEqualsItsCharacters := fun _ _ hn =>
  stringFramesFrom_eq_flatMap_charFrames hn (Nat.le_refl _)

/-- The letters of `HELLO` are entries 27, 24, 31, 31, 34 (R171), and go out last first (R201). -/
theorem framesOf_str_of_hello {s : State}
    (hstr : s.str = { str01 := 0x4548#16, str23 := 0x4C4C#16, str45 := 0x004F#16, str67 := 0x0000#16 }) :
    framesOf s (.str 5#4) =
      [0x08#8 ++ segRom 34, 0x07#8 ++ segRom 31, 0x06#8 ++ segRom 31, 0x05#8 ++ segRom 24, 0x04#8 ++ segRom 27] := by
  have hletter {k : Nat} (hk : k < 26) : lookup (BitVec.ofNat 8 (0x41 + k)) = segRom (20 + k) :=
    (lookupIgnoresCase k hk).2
  have hH : lookup 0x48#8 = segRom 27 := hletter (k := 7) (by decide)
  have hE : lookup 0x45#8 = segRom 24 := hletter (k := 4) (by decide)
  have hL : lookup 0x4C#8 = segRom 31 := hletter (k := 11) (by decide)
  have hO : lookup 0x4F#8 = segRom 34 := hletter (k := 14) (by decide)
  rw [framesOf, hstr, ← hH, ← hE, ← hL, ← hO]
  rfl

/-- Settles O47: the word is `STR #5`, which is accepted with the frames of the buffer's five letters. -/
theorem helloFrames : Obligations.HelloFrames := by
  intro s hb hstr
  have hdecode : decode 0x8500#16 = some (.str 5#4) := decode_encode (.str 5#4)
  rw [writeCmd_of_decode hdecode, exec_of_in_range hb rfl, framesOf_str_of_hello hstr, acceptCommand_cons]
  rfl

end Sys2Proof.Machine
end

section
/-!
Outcomes of a host write that is not taken (60_exceptions.md R221 to R223): a rejected command, at `BUSY` = 0, and a
dropped write, at `BUSY` = 1.
-/

namespace Sys2Proof.Machine

variable {s t : State} {w : Word} {p : PortIn}

/-- Settles O17: the illegal opcodes are those the decoder refuses, and `rejectCommand` is R221. -/
theorem illegalOpcodesReportErrOpcode : Obligations.IllegalOpcodesReportErrOpcode := fun _ _ hb hop =>
  writeCmd_of_illegal hb (decode_eq_none_iff.mpr hop)

/-- An idle block rejects the word for its opcode, rejects it for its range, or accepts it (R130). -/
theorem writeCmd_cases (hb : s.status.busy = false) (h : writeCmd w s = .next t) :
    (decode w = none ∧ t = rejectCommand errOpcode s)
    ∨ ∃ i, decode w = some i ∧ ((inRange i = false ∧ t = rejectCommand errRange s)
        ∨ (inRange i = true ∧ t = acceptCommand (isBringUp i) (framesOf s i) s)) := by
  cases hd : decode w with
  | none =>
    rw [writeCmd_of_illegal hb hd] at h
    cases h
    exact .inl ⟨rfl, rfl⟩
  | some i =>
    cases hi : inRange i with
    | false =>
      rw [writeCmd_of_out_of_range hb hd hi] at h
      cases h
      exact .inr ⟨i, rfl, .inl ⟨hi, rfl⟩⟩
    | true =>
      rw [writeCmd_of_decode hd, exec_of_in_range hb hi] at h
      cases h
      exact .inr ⟨i, rfl, .inr ⟨hi, rfl⟩⟩

/-- A non-zero `RESULT` is a rejection's, because accepting writes `OK` (R131, R221). -/
theorem writeCmd_eq_rejectCommand (hb : s.status.busy = false) (h : writeCmd w s = .next t)
    (hresult : t.status.result ≠ resultOk) : t = rejectCommand t.status.result s := by
  obtain ⟨-, rfl⟩ | ⟨i, -, ⟨-, rfl⟩ | ⟨-, rfl⟩⟩ := writeCmd_cases hb h
  · rfl
  · rfl
  · exact absurd (acceptCommand_result ..) hresult

/-- `ERR_RANGE` is the outcome of exactly the commands that are out of range (R130, R221). -/
theorem writeCmd_result_eq_errRange_iff (hb : s.status.busy = false) (h : writeCmd w s = .next t) :
    t.status.result = errRange ↔ ∃ i, decode w = some i ∧ inRange i = false := by
  obtain ⟨hd, rfl⟩ | ⟨i, hd, ⟨hi, rfl⟩ | ⟨hi, rfl⟩⟩ := writeCmd_cases hb h
  · simp [hd, errOpcode, errRange]
  · simp [hd, hi]
  · simp [hd, hi, resultOk, errRange]

/-- The words of the out-of-range commands are those of `BRIGHT`, `SCAN` and `STR` with too large an operand. -/
theorem exists_decode_out_of_range_iff : (∃ i, decode w = some i ∧ inRange i = false) ↔
    (∃ v, decode w = some (.bright v) ∧ 15 < v.toNat) ∨ (∃ v, decode w = some (.scan v) ∧ 7 < v.toNat)
      ∨ (∃ n, decode w = some (.str n) ∧ 8 < n.toNat) := by
  constructor
  · rintro ⟨i, hd, hi⟩
    obtain ⟨v, rfl, hv⟩ | ⟨v, rfl, hv⟩ | ⟨n, rfl, hn⟩ := inRange_eq_false_iff.mp hi
    · exact .inl ⟨v, hd, hv⟩
    · exact .inr (.inl ⟨v, hd, hv⟩)
    · exact .inr (.inr ⟨n, hd, hn⟩)
  · rintro (⟨v, hd, hv⟩ | ⟨v, hd, hv⟩ | ⟨n, hd, hn⟩)
    · exact ⟨_, hd, inRange_eq_false_iff.mpr (.inl ⟨v, rfl, hv⟩)⟩
    · exact ⟨_, hd, inRange_eq_false_iff.mpr (.inr (.inl ⟨v, rfl, hv⟩))⟩
    · exact ⟨_, hd, inRange_eq_false_iff.mpr (.inr (.inr ⟨n, rfl, hn⟩))⟩

/-- Settles O16: by the outcomes of a write to an idle block. -/
theorem rejectionChangesOnlyResult : Obligations.RejectionChangesOnlyResult := fun _ _ _ hb h =>
  ⟨writeCmd_eq_rejectCommand hb h, (writeCmd_result_eq_errRange_iff hb h).trans exists_decode_out_of_range_iff⟩

theorem hostEdge_of_write (hwe : p.hWe = true) (s : State) : hostEdge p s = writeReg (regAt p.hAddr) p.hWdata s :=
  if_pos hwe

/-- A busy block drops every write to `CMD` and to the string buffer (R59, R223). -/
theorem hostEdge_of_dropped (hb : s.status.busy = true) (hp : WritesCmdOrBuffer p) :
    hostEdge p s = .next (dropWrite s) := by
  obtain ⟨hwe, haddr⟩ := hp
  rw [hostEdge_of_write hwe]
  obtain hcmd | ⟨hlow, hhigh⟩ := haddr
  · rw [hcmd]
    exact writeCmd_of_busy hb _
  · exact (stringBufferWrites _ s).2 hb _ hlow hhigh

/-- Settles O18: `dropWrite` is R223, and a busy state of the invariant has `RESULT` = `OK`. -/
theorem busyDropsCommandAndBufferWrites : Obligations.BusyDropsCommandAndBufferWrites := fun _ _ hb hwe haddr =>
  ⟨hostEdge_of_dropped hb ⟨hwe, haddr⟩, fun hinv => hinv.busy_result hb⟩

end Sys2Proof.Machine
end
